-- ==== Sys2Proof/Word.lean ====
section
/-! DEFINITION. The words of the block: notes, ROM addresses, input vectors, and the exact ratios of the configuration's
decimal literals. Bit 0 is the least significant bit of every word (R10, R45).

A sample code (R56), a threshold and a period (R62) are unsigned numbers of `SAMPLE_W` or `PERIOD_W` bits, which are
parameters of the block (R6). They are of type Nat, as R10 reads every number, and the widths are checked where a number
enters: in the configuration, at the port, and for the registers by an invariant (log 4). -/

namespace Sys2Proof

/-- A note of the period ROM's domain, 0..60 (R60). The reserved 6-bit values 61..63 are no value of this type. -/
abbrev Note := Fin 61

/-- The 6-bit index of the threshold ROM (R41). -/
abbrev ThreshIndex := BitVec 6

/-- The 7-bit address of the period ROM (R43). -/
abbrev PeriodAddr := BitVec 7

/-- The input vector of one cycle for `SAMPLE_W = w`: `w + 3` bits, from the top `rst`, `gate`, `oct_sel`, `cv_code`;
with the default width bit 18, bit 17, bit 16, bits 15..0 (R67). -/
abbrev InputVector (w : Nat) := BitVec (w + 3)

/-- The 3-bit operation word `op`: bit 2 `rst`, bit 1 `gate_prev`, bit 0 `gate` (R58). -/
abbrev OpWord := BitVec 3

/-- An exact non-negative ratio: a frequency in Hz or a voltage in logic units (R6, R8(a), R11, R89). -/
structure Ratio where
  num : Nat
  den : Nat
  deriving DecidableEq, Repr, Inhabited

/-- The number that a ratio is (0 for the denominator 0, which no configuration check admits). -/
def Ratio.value (a : Ratio) : ℚ := (a.num : ℚ) / (a.den : ℚ)

/-- `a <= b` as numbers, for positive denominators: the comparison of cross products. -/
def Ratio.le (a b : Ratio) : Bool := decide (a.num * b.den ≤ b.num * a.den)

/-- `a = b` as numbers, for positive denominators. -/
def Ratio.same (a b : Ratio) : Bool := decide (a.num * b.den = b.num * a.den)

/-- A positive rational number (R8(a)). -/
def Ratio.positive (a : Ratio) : Bool := decide (0 < a.num) && decide (0 < a.den)

end Sys2Proof
end

