-- ==== Sys2Proof/Config.lean ====
section
/-! DEFINITION. The parameters of the block (R6) and the OPEN values of the tables. A configuration is fixed when the block
is built (R32); the checks of R7, R8 and R90 on it, and the configuration of the state after reset, are in
Sys2Proof/Machine/Tables.lean. -/

namespace Sys2Proof

/-- The parameters that are OPEN or have a default: the two tables, the clock, the widths, the reference voltage, and
whether the threshold table is the default one (R6). -/
structure Config where
  /-- `THRESH[0..60]`, ascending index (R6, R41). -/
  thresh : List Nat
  /-- `FREQ_HZ[0][0..60]` in Hz: the source's first table (R9). -/
  freq0 : List Ratio
  /-- `FREQ_HZ[1][0..60]` in Hz: the source's second table (R9). -/
  freq1 : List Ratio
  /-- `F_CLK` in Hz, any ratio (R6; log 5). -/
  fClk : Ratio
  /-- `SAMPLE_W`, the width of a code in bits (R6). -/
  sampleW : Nat
  /-- `PERIOD_W`, the width of a period in bits (R6). -/
  periodW : Nat
  /-- `VREF` in logic units, the value of the code `2 ^ SAMPLE_W - 1` (R6). -/
  vref : Ratio
  /-- Whether `THRESH` is the default table: the checks R7(c) and R7(d) bind only that one (log 16). -/
  isDefault : Bool
  deriving DecidableEq, Repr

namespace Config

/-- `N_THRESH`, the number of thresholds (R6). -/
def nThresh : Nat := 61

/-- `N_NOTE`, the number of entries of each frequency table (R6). -/
def nNote : Nat := 61

/-- The default `F_CLK`, 1 000 000 Hz (R6, D5). -/
def defaultClock : Ratio := ⟨1000000, 1⟩

/-- The default `SAMPLE_W` (R6, D2). -/
def defaultSampleW : Nat := 16

/-- The default `PERIOD_W` (R6, D5). -/
def defaultPeriodW : Nat := 16

/-- The default `VREF`, 3.3 logic units (R6, D2). -/
def defaultVref : Ratio := ⟨33, 10⟩

/-- `THRESH[60]` of the default table: the code of 3.204 (R7(c), R11). -/
def defaultTop : Nat := 63629

/-- The code of the source's round-trip sample 0.65 (R7(d), R11). -/
def roundTripCode : Nat := 12908

/-- `FREQ_HZ[0][0]`, 16.35 Hz (R8(c)). -/
def freqLow : Ratio := ⟨1635, 100⟩

/-- `FREQ_HZ[0][6]`, 23.12 Hz (R8(c)). -/
def freqNote6 : Ratio := ⟨2312, 100⟩

/-- `FREQ_HZ[0][60]` and `FREQ_HZ[1][0]`, 523.25 Hz (R8(c)). -/
def freqOverlap : Ratio := ⟨52325, 100⟩

/-- The OPEN thresholds (R6, D3): free values, one for each index, before the limits of R7 are put on them (log 3). -/
opaque rawThreshold : Nat → Nat

/-- The OPEN frequencies (R6, D6): free values, numerator and denominator less one, for each bank and note, before the
limits of R8 are put on them (log 3). -/
opaque rawFrequency : Bool → Nat → Nat × Nat

end Config
end Sys2Proof
end

