-- ==== Sys2Proof/Syntax.lean ====
section
/-! DEFINITION. The operations of one cycle: one constructor for each row of spec/opcode_table.json, with the inputs that
the row's rule reads. The block is no processor; these events play the part of instructions (R2, R58). -/

namespace Sys2Proof

/-- The event code of a cycle, decoded from the operation word alone (R58). -/
inductive Event where
  | reset
  | idleLow
  | rise
  | fall
  | idleHigh
  deriving DecidableEq, Repr

/-- The six cycle operations. An input that the rule ignores is no operand (log 15). -/
inductive Instr where
  /-- RESET, op `1xx` (R136). -/
  | reset
  /-- IDLE_LOW, op `000` (R110). -/
  | idleLow (octSel : Bool)
  /-- RISE_VALID, op `001` with a sample below `THRESH[60]` (R108). -/
  | riseValid (octSel : Bool) (cvCode : Nat)
  /-- RISE_OOR, op `001` with a sample at or above `THRESH[60]` (R107). -/
  | riseOor (octSel : Bool) (cvCode : Nat)
  /-- FALL, op `010` (R109). -/
  | fall (octSel : Bool)
  /-- IDLE_HIGH, op `011` (R110). -/
  | idleHigh (octSel : Bool)
  deriving DecidableEq, Repr

/-- The event of an operation: the two RISE rows share one (R58). -/
def Instr.event : Instr → Event
  | .reset => .reset
  | .idleLow _ => .idleLow
  | .riseValid _ _ => .rise
  | .riseOor _ _ => .rise
  | .fall _ => .fall
  | .idleHigh _ => .idleHigh

end Sys2Proof
end

