-- ==== Sys2Proof/WellFormed.lean ====
section
/-! DEFINITION. Well-formed operations: the sample of a RISE is a code of `SAMPLE_W` bits (R56) and stands on the side of
`THRESH[60]` that its row of spec/opcode_table.json asks for (the rows' "condition", R77). -/

namespace Sys2Proof

/-- `w` is the configuration's `SAMPLE_W` and `top` its `THRESH[60]`. Only the two RISE rows have a condition. -/
def Instr.wellFormed (w : Nat) (top : Nat) : Instr → Bool
  | .reset => true
  | .idleLow _ => true
  | .riseValid _ cv => decide (cv < 2 ^ w) && decide (cv < top)
  | .riseOor _ cv => decide (cv < 2 ^ w) && decide (top ≤ cv)
  | .fall _ => true
  | .idleHigh _ => true

end Sys2Proof
end

