-- ==== Sys2Proof/Decode.lean ====
section
/-! DEFINITION. The decoder and the encoder. The block fetches no instructions: each cycle presents one input vector of
`SAMPLE_W + 3` bits (R67), and the operation word takes `rst` and `gate` from it and `gate_prev` from the state (R58). Every
value decodes (R58: no illegal or reserved op value), so the decoder has no rejection. -/

namespace Sys2Proof

/-- What the block samples in one cycle: the fields of an input vector (R53, R67). -/
structure Inputs where
  rst : Bool
  gate : Bool
  octSel : Bool
  cvCode : Nat
  deriving DecidableEq, Repr

/-- Whether the code fits a port of `w` bits (R53, R56). -/
def Inputs.fits (w : Nat) (v : Inputs) : Bool := decide (v.cvCode < 2 ^ w)

/-- The input vector of one cycle's inputs (R67). -/
def inputVector (w : Nat) (v : Inputs) : InputVector w :=
  (BitVec.ofBool v.rst ++ (BitVec.ofBool v.gate ++ (BitVec.ofBool v.octSel ++ BitVec.ofNat w v.cvCode))).cast (by omega)

/-- The inputs of an input vector (R67). -/
def vectorInputs {w : Nat} (x : InputVector w) : Inputs :=
  ⟨x.getLsbD (w + 2), x.getLsbD (w + 1), x.getLsbD w, (x.extractLsb' 0 w).toNat⟩

/-- `op = {in.rst, gate_prev, in.gate}` (R58). -/
def opWord (rst gatePrev gate : Bool) : OpWord :=
  BitVec.ofBool rst ++ (BitVec.ofBool gatePrev ++ BitVec.ofBool gate)

/-- The event code of an operation word (R58). -/
def decodeOp (op : OpWord) : Event :=
  match op.getLsbD 2, op.getLsbD 1, op.getLsbD 0 with
  | true, _, _ => .reset
  | false, false, false => .idleLow
  | false, false, true => .rise
  | false, true, false => .fall
  | false, true, true => .idleHigh

/-- The operation of a cycle (R58). `top` is `THRESH[60]`, which splits RISE into its two rows (R77). -/
def decode (top : Nat) (gatePrev : Bool) (v : Inputs) : Instr :=
  match decodeOp (opWord v.rst gatePrev v.gate) with
  | .reset => .reset
  | .idleLow => .idleLow v.octSel
  | .rise => if v.cvCode < top then .riseValid v.octSel v.cvCode else .riseOor v.octSel v.cvCode
  | .fall => .fall v.octSel
  | .idleHigh => .idleHigh v.octSel

/-- What selects an operation: the register bit `gate_prev` and the cycle's input vector (R58, R67). -/
structure CycleWord (w : Nat) where
  gatePrev : Bool
  vector : InputVector w
  deriving DecidableEq, Repr

/-- The operation of a word. -/
def CycleWord.decode {w : Nat} (top : Nat) (x : CycleWord w) : Instr :=
  Sys2Proof.decode top x.gatePrev (vectorInputs x.vector)

/-- The word of an operation for `SAMPLE_W = w`. An input that the operation ignores is recorded as 0 (R65). -/
def encode (w : Nat) : Instr → CycleWord w
  | .reset => ⟨false, inputVector w ⟨true, false, false, 0⟩⟩
  | .idleLow o => ⟨false, inputVector w ⟨false, false, o, 0⟩⟩
  | .riseValid o cv => ⟨false, inputVector w ⟨false, true, o, cv⟩⟩
  | .riseOor o cv => ⟨false, inputVector w ⟨false, true, o, cv⟩⟩
  | .fall o => ⟨true, inputVector w ⟨false, false, o, 0⟩⟩
  | .idleHigh o => ⟨true, inputVector w ⟨false, true, o, 0⟩⟩

/-- The `gate_prev` bit of a word numbered as spec/opcode_table.json numbers it (op bit 1). -/
def tableGatePrev (w : Nat) : Bool := w.testBit 1

/-- The inputs of a word numbered as spec/opcode_table.json numbers it: op in bits 2..0, and above it the inputs that the
table gives no bits, `oct_sel` in bit 3 and `cv_code` from bit 4 on (log 13). -/
def tableInputs (w : Nat) : Inputs := ⟨w.testBit 2, w.testBit 0, w.testBit 3, w / 16⟩

/-- The operation the decoder reads from a table word, at the default `SAMPLE_W` and under the default table's
`THRESH[60]`. A word whose code does not fit the port is none of the block's (log 13). -/
def decodeTableWord (_nbits w : Nat) : Option Instr :=
  if (tableInputs w).fits Config.defaultSampleW then some (decode Config.defaultTop (tableGatePrev w) (tableInputs w))
  else none

end Sys2Proof
end

