-- ==== Sys2Proof/Machine/Tables.lean ====
section
/-! DEFINITION. What the configuration gives the block: the conversions of R11, the period of a frequency (R89), the checks
of R7, R8 and R90, the legal configurations, and the configuration of the state after reset. -/

namespace Sys2Proof.Machine

/-- The code of a threshold of `t` logic units: `ceil(t * (2^SAMPLE_W - 1) / VREF)` (R11). -/
def thresholdCode (w : Nat) (vref t : Ratio) : Nat :=
  (t.num * (2 ^ w - 1) * vref.den + (t.den * vref.num - 1)) / (t.den * vref.num)

/-- The code of a sample of `v` logic units: `floor(v * (2^SAMPLE_W - 1) / VREF)` (R11). -/
def sampleCode (w : Nat) (vref v : Ratio) : Nat :=
  v.num * (2 ^ w - 1) * vref.den / (v.den * vref.num)

/-- `round_half_up(F_CLK / f)` as exact arithmetic (R10, R89). -/
def periodOf (fClk f : Ratio) : Nat :=
  (2 * fClk.num * f.den + fClk.den * f.num) / (2 * fClk.den * f.num)

/-- Each entry stands below or at the next one. -/
def nonDecreasing {α : Type} (le : α → α → Bool) : List α → Bool
  | a :: b :: rest => le a b && nonDecreasing le (b :: rest)
  | _ => true

/-- R7(a): exactly 61 thresholds, each a code of `SAMPLE_W` bits. -/
def threshCountOk (c : Config) : Bool :=
  c.thresh.length == Config.nThresh && c.thresh.all (fun t => decide (t < 2 ^ c.sampleW))

/-- R7(b): the thresholds are non-decreasing. -/
def threshOrderOk (c : Config) : Bool := nonDecreasing (fun a b => decide (a ≤ b)) c.thresh

/-- The default table under the default `SAMPLE_W` and `VREF`: what R7(c) and R7(d) bind (log 16). -/
def hasDefaultCodes (c : Config) : Bool :=
  c.isDefault && (c.sampleW == Config.defaultSampleW) && decide (0 < c.vref.den) && c.vref.same Config.defaultVref

/-- R7(c). -/
def threshTopOk (c : Config) : Bool := !hasDefaultCodes c || c.thresh[60]? == some Config.defaultTop

/-- R7(d). -/
def threshRoundTripOk (c : Config) : Bool :=
  !hasDefaultCodes c ||
    ((c.thresh[6]?).any (fun t => decide (t ≤ Config.roundTripCode)) &&
      (c.thresh[7]?).any (fun t => decide (Config.roundTripCode < t)))

/-- R6: 61 entries in each frequency table. -/
def freqCountOk (c : Config) : Bool := c.freq0.length == Config.nNote && c.freq1.length == Config.nNote

/-- R8(a): every frequency is a positive rational. -/
def freqPositiveOk (c : Config) : Bool := c.freq0.all Ratio.positive && c.freq1.all Ratio.positive

/-- R8(b): each table is non-decreasing. -/
def freqOrderOk (c : Config) : Bool := nonDecreasing Ratio.le c.freq0 && nonDecreasing Ratio.le c.freq1

/-- R8(c): the four frequencies the source pins. -/
def freqPinsOk (c : Config) : Bool :=
  (c.freq0[0]?).any (Ratio.same Config.freqLow) && (c.freq0[6]?).any (Ratio.same Config.freqNote6) &&
    (c.freq0[60]?).any (Ratio.same Config.freqOverlap) && (c.freq1[0]?).any (Ratio.same Config.freqOverlap)

/-- R90: a period has a high half of at least one cycle and fits the register. -/
def periodInRange (w p : Nat) : Bool := decide (2 ≤ p) && decide (p ≤ 2 ^ w - 1)

/-- R8(d): every derived period meets R90. -/
def periodsOk (c : Config) : Bool :=
  c.freq0.all (fun f => periodInRange c.periodW (periodOf c.fClk f)) &&
    c.freq1.all (fun f => periodInRange c.periodW (periodOf c.fClk f))

/-- The configuration check of R7, R8 and R90: a model refuses a configuration that fails it (R63(b), R123). -/
def configOk (c : Config) : Bool :=
  threshCountOk c && threshOrderOk c && threshTopOk c && threshRoundTripOk c && freqCountOk c && freqPositiveOk c &&
    freqOrderOk c && freqPinsOk c && periodsOk c

/-- A configuration that the check accepts: what the block can be built with (R137(a); log 2). -/
abbrev LegalConfig := { c : Config // configOk c = true }

/-- `FREQ_HZ[b]`: bank 0 for Octave Flag false, bank 1 for true (R9). -/
def freqBank (c : Config) (b : Bool) : List Ratio := if b then c.freq1 else c.freq0

/-- `PERIOD_ROM[b][0..60]`, fixed when the block is built (R32, R89). -/
def periodRom (c : Config) (b : Bool) : List Nat :=
  (freqBank c b).map (periodOf c.fClk)

/-! The OPEN tables, held inside the limits of R7 and R8: each free value is clamped to the bounds that the pinned values
give its index, and the table is the running maximum, so that a legal table is left as it is (log 3). -/

/-- The bounds R7 gives threshold `i` of the default table. -/
def threshLow (i : Nat) : Nat := if i ≤ 6 then 0 else 12909
def threshHigh (i : Nat) : Nat := if i ≤ 6 then 12908 else 63629

/-- The running maximum of the clamped free thresholds. -/
def threshUpTo (raw : Nat → Nat) : Nat → Nat
  | 0 => min (raw 0) (threshHigh 0)
  | i + 1 => max (threshUpTo raw i) (max (threshLow (i + 1)) (min (raw (i + 1)) (threshHigh (i + 1))))

/-- `THRESH[i]` of the default table with the open entries as `raw` gives them. -/
def threshEntry (raw : Nat → Nat) (i : Nat) : Nat :=
  if i = 60 then Config.defaultTop else threshUpTo raw i

/-- The bounds R8 and R90 give entry `n` of bank `b` at the default clock and width. -/
def freqLowBound : Bool → Nat → Ratio
  | false, n => if n < 6 then Config.freqLow else if n < 60 then Config.freqNote6 else Config.freqOverlap
  | true, _ => Config.freqOverlap
def freqHighBound : Bool → Nat → Ratio
  | false, n => if n = 0 then Config.freqLow else if n ≤ 6 then Config.freqNote6 else Config.freqOverlap
  | true, n => if n = 0 then Config.freqOverlap else ⟨2000000, 3⟩

/-- `f` brought inside `lo .. hi`. -/
def clampRatio (lo hi f : Ratio) : Ratio := if f.le lo && !lo.le f then lo else if hi.le f && !f.le hi then hi else f

/-- The greater of two ratios, the second where they are equal. -/
def maxRatio (a b : Ratio) : Ratio := if a.le b then b else a

/-- A positive ratio from a free pair. -/
def ratioOfPair (p : Nat × Nat) : Ratio := ⟨p.1 + 1, p.2 + 1⟩

/-- The clamped free frequency of entry `n`. -/
def clampedFreq (raw : Bool → Nat → Nat × Nat) (b : Bool) (n : Nat) : Ratio :=
  clampRatio (freqLowBound b n) (freqHighBound b n) (ratioOfPair (raw b n))

/-- `FREQ_HZ[b][n]` with the open entries as `raw` gives them: the running maximum of the clamped free frequencies. -/
def freqEntry (raw : Bool → Nat → Nat × Nat) (b : Bool) : Nat → Ratio
  | 0 => clampedFreq raw b 0
  | n + 1 => maxRatio (freqEntry raw b n) (clampedFreq raw b (n + 1))

/-- A default-table configuration with the default clock, widths and reference voltage, from free values. -/
def configOf (rawT : Nat → Nat) (rawF : Bool → Nat → Nat × Nat) : Config :=
  { thresh := (List.range 61).map (threshEntry rawT)
    freq0 := (List.range 61).map (freqEntry rawF false)
    freq1 := (List.range 61).map (freqEntry rawF true)
    fClk := Config.defaultClock
    sampleW := Config.defaultSampleW
    periodW := Config.defaultPeriodW
    vref := Config.defaultVref
    isDefault := true }

end Sys2Proof.Machine
end

