-- ==== Sys2Proof/Machine/Built.lean ====
section
/-! DEFINITION. The configuration of the state after reset: the OPEN tables as free values inside the limits of R7 and R8,
and the proof that it passes the configuration check whatever the free values are (log 3). -/

namespace Sys2Proof.Machine

/-- A list made from a function over `k .. k+n-1` is non-decreasing where the function is. -/
theorem nonDecreasing_map_range' {α : Type} (le : α → α → Bool) (f : Nat → α) (n k : Nat)
    (h : ∀ i, i + 1 < k + n → le (f i) (f (i + 1)) = true) :
    nonDecreasing le ((List.range' k n).map f) = true := by
  induction n generalizing k with
  | zero => rfl
  | succ n ih =>
    cases n with
    | zero => rfl
    | succ n =>
      have hk := h k (by omega)
      have hrest := ih (k + 1) (fun i hi => h i (by omega))
      simp only [List.range'_succ, List.map_cons, nonDecreasing] at hrest ⊢
      simp [hk, hrest]

theorem nonDecreasing_map_range {α : Type} (le : α → α → Bool) (f : Nat → α) (n : Nat)
    (h : ∀ i, i + 1 < n → le (f i) (f (i + 1)) = true) :
    nonDecreasing le ((List.range n).map f) = true := by
  rw [List.range_eq_range']
  exact nonDecreasing_map_range' le f n 0 (fun i hi => h i (by omega))

/-! The thresholds. -/

theorem threshUpTo_le_succ (raw : Nat → Nat) (i : Nat) : threshUpTo raw i ≤ threshUpTo raw (i + 1) := by
  simp only [threshUpTo]; omega

theorem threshUpTo_le_top (raw : Nat → Nat) (i : Nat) : threshUpTo raw i ≤ 63629 := by
  induction i with
  | zero => exact Nat.le_trans (Nat.min_le_right _ _) (by decide)
  | succ i ih => simp only [threshUpTo, threshLow, threshHigh]; split <;> omega

theorem threshUpTo_le_roundTrip (raw : Nat → Nat) (i : Nat) (h : i ≤ 6) : threshUpTo raw i ≤ 12908 := by
  induction i with
  | zero => exact Nat.min_le_right _ _
  | succ i ih =>
    have hi := ih (by omega)
    simp only [threshUpTo, threshLow, threshHigh, if_pos h]; omega

theorem threshUpTo_seven (raw : Nat → Nat) : 12909 ≤ threshUpTo raw 7 := by
  show 12909 ≤ max (threshUpTo raw 6) (max 12909 _)
  exact Nat.le_trans (Nat.le_max_left _ _) (Nat.le_max_right _ _)

theorem threshEntry_le_top (raw : Nat → Nat) (i : Nat) : threshEntry raw i ≤ 63629 := by
  have := threshUpTo_le_top raw i
  unfold threshEntry Config.defaultTop
  split <;> omega

theorem threshEntry_le_succ (raw : Nat → Nat) (i : Nat) (h : i + 1 < 61) :
    threshEntry raw i ≤ threshEntry raw (i + 1) := by
  have h1 := threshUpTo_le_succ raw i
  have h2 := threshUpTo_le_top raw i
  unfold threshEntry Config.defaultTop
  rw [if_neg (by omega)]
  split <;> omega

/-! The frequencies: `Ratio.le` read as a statement about natural numbers. -/

theorem Ratio.le_iff (a b : Ratio) : a.le b = true ↔ a.num * b.den ≤ b.num * a.den := by
  simp [Ratio.le]

theorem Ratio.positive_iff (a : Ratio) : a.positive = true ↔ 0 < a.num ∧ 0 < a.den := by
  simp [Ratio.positive]

theorem Ratio.le_refl (a : Ratio) : a.le a = true := by simp [Ratio.le]

theorem Ratio.le_trans {a b c : Ratio} (hb : 0 < b.den) (hab : a.le b = true) (hbc : b.le c = true) :
    a.le c = true := by
  rw [Ratio.le_iff] at *
  have h1 : a.num * b.den * c.den ≤ b.num * a.den * c.den := Nat.mul_le_mul_right _ hab
  have h2 : b.num * c.den * a.den ≤ c.num * b.den * a.den := Nat.mul_le_mul_right _ hbc
  have h3 : a.num * c.den * b.den ≤ c.num * a.den * b.den := by
    calc a.num * c.den * b.den = a.num * b.den * c.den := by ring
      _ ≤ b.num * a.den * c.den := h1
      _ = b.num * c.den * a.den := by ring
      _ ≤ c.num * b.den * a.den := h2
      _ = c.num * a.den * b.den := by ring
  exact Nat.le_of_mul_le_mul_right h3 hb

theorem Ratio.le_total (a b : Ratio) : a.le b = true ∨ b.le a = true := by
  rw [Ratio.le_iff, Ratio.le_iff]; omega

theorem clampRatio_spec {lo hi f : Ratio} (hlo : lo.positive = true) (hhi : hi.positive = true)
    (hlh : lo.le hi = true) (hf : f.positive = true) :
    (clampRatio lo hi f).positive = true ∧ lo.le (clampRatio lo hi f) = true ∧ (clampRatio lo hi f).le hi = true := by
  unfold clampRatio
  split
  · exact ⟨hlo, Ratio.le_refl lo, hlh⟩
  · rename_i h1
    split
    · exact ⟨hhi, hlh, Ratio.le_refl hi⟩
    · rename_i h2
      simp only [Bool.and_eq_true, Bool.not_eq_true', not_and, Bool.not_eq_false] at h1 h2
      refine ⟨hf, ?_, ?_⟩
      · rcases Ratio.le_total lo f with h | h
        · exact h
        · exact h1 h
      · rcases Ratio.le_total f hi with h | h
        · exact h
        · exact h2 h

theorem maxRatio_cases (a b : Ratio) : (maxRatio a b = b ∧ a.le b = true) ∨ (maxRatio a b = a ∧ b.le a = true) := by
  unfold maxRatio
  split
  · exact .inl ⟨rfl, by assumption⟩
  · refine .inr ⟨rfl, (Ratio.le_total a b).resolve_left (by assumption)⟩

theorem freqLowBound_positive (b : Bool) (n : Nat) : (freqLowBound b n).positive = true := by
  cases b
  · simp only [freqLowBound]; split <;> try split
    all_goals rfl
  · rfl

theorem freqHighBound_positive (b : Bool) (n : Nat) : (freqHighBound b n).positive = true := by
  cases b
  · simp only [freqHighBound]; split <;> try split
    all_goals rfl
  · simp only [freqHighBound]; split <;> rfl

theorem freqBounds_le (b : Bool) (n : Nat) : (freqLowBound b n).le (freqHighBound b n) = true := by
  cases b
  · simp only [freqLowBound, freqHighBound]
    by_cases h0 : n = 0
    · subst h0; decide
    · by_cases h6 : n < 6
      · rw [if_pos h6, if_neg h0, if_pos (by omega)]; decide
      · by_cases he : n = 6
        · subst he; decide
        · rw [if_neg h6, if_neg h0, if_neg (show ¬ n ≤ 6 by omega)]; split <;> decide
  · simp only [freqLowBound, freqHighBound]; split <;> decide

theorem freqHighBound_le_succ (b : Bool) (n : Nat) : (freqHighBound b n).le (freqHighBound b (n + 1)) = true := by
  cases b
  · simp only [freqHighBound, Nat.succ_ne_zero, if_false]
    by_cases h0 : n = 0
    · subst h0; decide
    · by_cases h : n + 1 ≤ 6
      · rw [if_neg h0, if_pos (by omega), if_pos h]; decide
      · rw [if_neg h0, if_neg h]; split <;> decide
  · simp only [freqHighBound, Nat.succ_ne_zero, if_false]; split <;> decide

theorem clampedFreq_spec (raw : Bool → Nat → Nat × Nat) (b : Bool) (n : Nat) :
    (clampedFreq raw b n).positive = true ∧ (freqLowBound b n).le (clampedFreq raw b n) = true ∧
      (clampedFreq raw b n).le (freqHighBound b n) = true :=
  clampRatio_spec (freqLowBound_positive b n) (freqHighBound_positive b n) (freqBounds_le b n)
    (by simp [Ratio.positive, ratioOfPair])

/-- Every entry is positive and inside the bounds of its index. -/
theorem freqEntry_spec (raw : Bool → Nat → Nat × Nat) (b : Bool) (n : Nat) :
    (freqEntry raw b n).positive = true ∧ (freqLowBound b n).le (freqEntry raw b n) = true ∧
      (freqEntry raw b n).le (freqHighBound b n) = true := by
  induction n with
  | zero => exact clampedFreq_spec raw b 0
  | succ n ih =>
    obtain ⟨hp, hl, hh⟩ := clampedFreq_spec raw b (n + 1)
    have hpos := (Ratio.positive_iff _).1 hp
    have hpos' := (Ratio.positive_iff _).1 ih.1
    have hbound := (Ratio.positive_iff _).1 (freqHighBound_positive b n)
    simp only [freqEntry]
    rcases maxRatio_cases (freqEntry raw b n) (clampedFreq raw b (n + 1)) with ⟨he, -⟩ | ⟨he, hle⟩
    · rw [he]; exact ⟨hp, hl, hh⟩
    · rw [he]
      exact ⟨ih.1, Ratio.le_trans hpos.2 hl hle, Ratio.le_trans hbound.2 ih.2.2 (freqHighBound_le_succ b n)⟩

theorem freqEntry_le_succ (raw : Bool → Nat → Nat × Nat) (b : Bool) (n : Nat) :
    (freqEntry raw b n).le (freqEntry raw b (n + 1)) = true := by
  simp only [freqEntry]
  rcases maxRatio_cases (freqEntry raw b n) (clampedFreq raw b (n + 1)) with ⟨he, h⟩ | ⟨he, -⟩
  · rw [he]; exact h
  · rw [he]; exact Ratio.le_refl _

/-- Two bounds that meet pin an entry's value. -/
theorem Ratio.same_of_le {a b : Ratio} (h1 : a.le b = true) (h2 : b.le a = true) : a.same b = true := by
  rw [Ratio.le_iff] at h1 h2
  simp only [Ratio.same, decide_eq_true_eq]; omega

theorem periodInRange_iff (w p : Nat) : periodInRange w p = true ↔ 2 ≤ p ∧ p ≤ 2 ^ w - 1 := by
  simp [periodInRange]

/-- The frequencies that R90 admits at the default clock and width. -/
theorem periodInRange_of_bounds (f : Ratio) (hp : f.positive = true) (hl : Config.freqLow.le f = true)
    (hh : f.le ⟨2000000, 3⟩ = true) :
    periodInRange Config.defaultPeriodW (periodOf Config.defaultClock f) = true := by
  rw [Ratio.positive_iff] at hp
  rw [Ratio.le_iff] at hl hh
  simp only [Config.freqLow] at hl
  simp only at hh
  rw [periodInRange_iff]
  have e : periodOf Config.defaultClock f = (2 * 1000000 * f.den + 1 * f.num) / (2 * 1 * f.num) := rfl
  have hw : 2 ^ Config.defaultPeriodW - 1 = 65535 := rfl
  rw [e, hw]
  constructor
  · rw [Nat.le_div_iff_mul_le (by omega)]; omega
  · rw [← Nat.lt_succ_iff, Nat.div_lt_iff_lt_mul (by omega)]; omega

theorem freqEntry_period (raw : Bool → Nat → Nat × Nat) (b : Bool) (n : Nat) :
    periodInRange Config.defaultPeriodW (periodOf Config.defaultClock (freqEntry raw b n)) = true := by
  obtain ⟨hp, hl, hh⟩ := freqEntry_spec raw b n
  have hlp := (Ratio.positive_iff _).1 (freqLowBound_positive b n)
  have hhp := (Ratio.positive_iff _).1 (freqHighBound_positive b n)
  refine periodInRange_of_bounds _ hp (Ratio.le_trans hlp.2 ?_ hl) (Ratio.le_trans hhp.2 hh ?_)
  · cases b
    · simp only [freqLowBound]; split <;> try split
      all_goals decide
    · exact (by decide : Config.freqLow.le Config.freqOverlap = true)
  · cases b
    · simp only [freqHighBound]; split <;> try split
      all_goals decide
    · simp only [freqHighBound]; split <;> decide

theorem all_map_range {α : Type} (p : α → Bool) (f : Nat → α) (n : Nat) (h : ∀ i, p (f i) = true) :
    ((List.range n).map f).all p = true := by
  simp [List.all_eq_true, h]

/-- Whatever the free values are, the configuration made from them passes the check. -/
theorem configOf_ok (rawT : Nat → Nat) (rawF : Bool → Nat → Nat × Nat) : configOk (configOf rawT rawF) = true := by
  have h6 : threshEntry rawT 6 ≤ Config.roundTripCode := threshUpTo_le_roundTrip rawT 6 (le_refl 6)
  have h7 : Config.roundTripCode < threshEntry rawT 7 := by
    have := threshUpTo_seven rawT
    unfold Config.roundTripCode threshEntry
    rw [if_neg (by decide)]; omega
  have pin (b : Bool) (n : Nat) (r : Ratio) (h1 : freqLowBound b n = r) (h2 : freqHighBound b n = r) :
      r.same (freqEntry rawF b n) = true := by
    have h := freqEntry_spec rawF b n
    exact Ratio.same_of_le (h1 ▸ h.2.1) (h2 ▸ h.2.2)
  have p0 := pin false 0 Config.freqLow rfl rfl
  have p6 := pin false 6 Config.freqNote6 rfl rfl
  have p60 := pin false 60 Config.freqOverlap rfl rfl
  have q0 := pin true 0 Config.freqOverlap rfl rfl
  have pos (b : Bool) := all_map_range Ratio.positive (freqEntry rawF b) 61 (fun n => (freqEntry_spec rawF b n).1)
  have per (b : Bool) := all_map_range (fun f => periodInRange Config.defaultPeriodW (periodOf Config.defaultClock f))
    (freqEntry rawF b) 61 (freqEntry_period rawF b)
  have ord (b : Bool) := nonDecreasing_map_range Ratio.le (freqEntry rawF b) 61 (fun n _ => freqEntry_le_succ rawF b n)
  have tord : nonDecreasing (fun a b => decide (a ≤ b)) ((List.range 61).map (threshEntry rawT)) = true :=
    nonDecreasing_map_range _ _ 61 (fun i hi => by simpa using threshEntry_le_succ rawT i hi)
  have trange := all_map_range (fun t => decide (t < 2 ^ 16)) (threshEntry rawT) 61
    (fun n => decide_eq_true (Nat.lt_of_le_of_lt (threshEntry_le_top rawT n) (by norm_num)))
  have ttop : threshEntry rawT 60 = Config.defaultTop := if_pos rfl
  unfold configOk
  simp only [Bool.and_eq_true]
  refine ⟨⟨⟨⟨⟨⟨⟨⟨?_, tord⟩, ?_⟩, ?_⟩, ?_⟩, ?_⟩, ?_⟩, ?_⟩, ?_⟩
  · exact Bool.and_eq_true_iff.2 ⟨by simp [configOf, Config.nThresh], trange⟩
  · simp [threshTopOk, configOf, ttop]
  · simp [threshRoundTripOk, configOf, h6, h7]
  · simp [freqCountOk, configOf, Config.nNote]
  · exact Bool.and_eq_true_iff.2 ⟨pos false, pos true⟩
  · exact Bool.and_eq_true_iff.2 ⟨ord false, ord true⟩
  · simp [freqPinsOk, configOf, p0, p6, p60, q0]
  · exact Bool.and_eq_true_iff.2 ⟨per false, per true⟩

/-- The configuration the block of `State.reset` is built with: the default clock, widths and reference voltage, and the
OPEN tables (log 3). -/
def builtConfig : LegalConfig :=
  ⟨configOf Config.rawThreshold Config.rawFrequency, configOf_ok _ _⟩

end Sys2Proof.Machine
end

