-- ==== Sys2Proof/Machine/State.lean ====
section
/-! DEFINITION. The state of the block: the seven registers of R20, and beside them what the model carries for the step: the
pending input vectors, whether the run has had its reset, and the configuration. -/

namespace Sys2Proof.Machine

/-- The Gate State Machine's two states (R22); encodings in R61. -/
inductive GateState where
  | silent
  | sounding
  deriving DecidableEq, Repr

/-- The level at a one-bit input port. -/
inductive Level where
  | low
  | high
  /-- X, Z or a metastable value: not modelled, the step refuses it (R63(c); log 7). -/
  | nonBinary
  deriving DecidableEq, Repr

/-- What the host drives for one cycle (R53, R118). `cvCode` is the number that the port of `SAMPLE_W` wires carries. -/
structure Pins where
  rst : Level
  gate : Level
  octSel : Level
  cvCode : Nat
  deriving DecidableEq, Repr

/-- The block never faults: R120 gives it no state in which it traps, waits or stops, and VoltageOutOfRange is a register
write (R124). So this type has no constructor. -/
inductive Fault where
  deriving DecidableEq, Repr

/-- Why the model gives a configuration or a cycle no meaning (R12). All are safe: the model stops where the spec refuses or
says nothing. -/
inductive Refusal where
  /-- An operation with no meaning yet; raised by exec's arms only. No arm raises it. -/
  | notModelled (mnemonic : String)
  /-- The configuration fails R7, R8 or R90; raised by `startRun` (R63(b), R123). -/
  | badConfiguration
  /-- A cycle other than RESET in a run that has had no RESET; raised by `step` (R34). -/
  | runWithoutReset
  /-- A one-bit input is neither 0 nor 1; raised by `step` (R63(c); log 7). -/
  | nonBinaryInput
  /-- A code on `cv_code` that is no number of `SAMPLE_W` bits, which the port cannot carry; raised by `step` (R53, R56;
  log 20). -/
  | codeTooWide
  /-- No input vector is left; raised by `step`. R119 does not say what the block does after the script ends (log 8). -/
  | scriptEnded
  /-- A RISE whose sample contradicts its row's condition; raised by `execRiseValid` and `execRiseOor`. The decoder makes no
  such operation (log 11). -/
  | mismatchedRise
  deriving DecidableEq, Repr

/-- The state of the machine. The first seven fields are R20's registers, the whole architectural state; the last three are
the model's own (logs 1, 2, 6). -/
structure State where
  /-- `state` (R22). -/
  state : GateState
  /-- `gate_prev`, the level of `gate` at the previous edge (R23). -/
  gatePrev : Bool
  /-- `octave_q`, the Octave Flag (R27). -/
  octaveQ : Bool
  /-- `err_flag`, the Error Flag (R24). -/
  errFlag : Bool
  /-- `duty_en`: duty 0.5 if set, else 0.0 (R25). -/
  dutyEn : Bool
  /-- `period_reg`, in `clk` cycles: `PERIOD_W` bits, an invariant (R20, R26; log 4). -/
  periodReg : Nat
  /-- `counter`, the phase within the period: `PERIOD_W` bits, an invariant (R20, R28; log 4). -/
  counter : Nat
  /-- Whether the run has had a RESET cycle (R34; log 6). -/
  wasReset : Bool
  /-- The input vectors of the cycles to come, the next one first (R65, R118; log 1). -/
  script : List Pins
  /-- The configuration the block was built with: a parameter of the step, which no step changes (R32; log 2). -/
  cfg : LegalConfig
  deriving DecidableEq, Repr

/-- The machine right after reset (R33), with no input vector presented yet and the OPEN tables of `builtConfig` (log 3). -/
def State.reset : State :=
  { state := .silent
    gatePrev := false
    octaveQ := false
    errFlag := false
    dutyEn := false
    periodReg := 0
    counter := 0
    wasReset := true
    script := []
    cfg := builtConfig }

end Sys2Proof.Machine
end

