-- ==== Sys2Proof/Machine/Ops.lean ====
section
/-! DEFINITION. The shared operations: the reads of the two ROMs (R42, R43), LOOKUP (R85), the divider's TICK, PROGRAM and
SILENCE (R96, R101, R103), the sampling of the ports (R27, R106), the one error of the block and its clearing (R122, R125),
and the reset of the registers (R33). -/

namespace Sys2Proof.Machine

/-! What a legal configuration guarantees about the sizes of its tables (R6, R7(a)). -/

theorem legal_thresh_length (c : LegalConfig) : c.val.thresh.length = 61 := by
  have h := c.property
  simp only [configOk, Bool.and_eq_true] at h
  have h' := h.1.1.1.1.1.1.1.1
  simp only [threshCountOk, Config.nThresh, Bool.and_eq_true, beq_iff_eq] at h'
  exact h'.1

theorem legal_bank_length (c : LegalConfig) (b : Bool) : (freqBank c.val b).length = 61 := by
  have h := c.property
  simp only [configOk, Bool.and_eq_true] at h
  have h' := h.1.1.1.1.2
  simp only [freqCountOk, Config.nNote, Bool.and_eq_true, beq_iff_eq] at h'
  cases b
  · exact h'.1
  · exact h'.2

theorem legal_rom_length (c : LegalConfig) (b : Bool) : (periodRom c.val b).length = 61 := by
  simp [periodRom, legal_bank_length]

/-! The ROMs. -/

/-- `ROM_T(i)`: the threshold of index `i`, or none at the reserved indexes 61..63, whose read is refused (R41, R42;
log 10). -/
def romT (c : LegalConfig) (i : ThreshIndex) : Option Nat := c.val.thresh[i.toNat]?

/-- `ROM_P` at the address `{bank, note}`: bit 6 is the bank, bits 5..0 the note; none at the reserved notes 61..63, whose
read is refused (R43, R44; log 10). -/
def romP (c : LegalConfig) (addr : PeriodAddr) : Option Nat :=
  (periodRom c.val (addr.getLsbD 6))[(addr.extractLsb' 0 6).toNat]?

/-- `THRESH[60]` is there. -/
theorem romT_top_isSome (c : LegalConfig) : (romT c 60#6).isSome = true := by
  have h := legal_thresh_length c
  simp [romT, h]

/-- `THRESH[60]`, the top threshold (R77). -/
def topThreshold (c : LegalConfig) : Nat := (romT c 60#6).get (romT_top_isSome c)

/-- `addr[6:0] = {octave_q, note[5:0]}` (R87). -/
def periodAddr (bank : Bool) (note : Note) : PeriodAddr := BitVec.ofBool bank ++ BitVec.ofNat 6 note.val

theorem periodAddr_bank (bank : Bool) (note : Note) : (periodAddr bank note).getLsbD 6 = bank := by
  revert note; cases bank <;> decide

theorem periodAddr_note (bank : Bool) (note : Note) : ((periodAddr bank note).extractLsb' 0 6).toNat = note.val := by
  have h := note.isLt
  rw [periodAddr, BitVec.extractLsb'_append_eq_right, BitVec.toNat_ofNat]
  omega

/-- No note of the domain 0..60 forms a reserved address (R92). -/
theorem romP_periodAddr_isSome (c : LegalConfig) (bank : Bool) (note : Note) :
    (romP c (periodAddr bank note)).isSome = true := by
  have h := legal_rom_length c bank
  rw [romP, periodAddr_bank, periodAddr_note]
  have hn := note.isLt
  simp only [isSome_getElem?, h]
  exact hn

/-- LOOKUP: the period of a note in the bank the Octave Flag selects (R85, R86). -/
def lookup (c : LegalConfig) (octave : Bool) (note : Note) : Nat :=
  (romP c (periodAddr octave note)).get (romP_periodAddr_isSome c octave note)

/-! The divider. -/

/-- TICK's next counter value; the sum is exact, as at R96's `PERIOD_W + 1` bits (R96, R10). -/
def nextCounter (dutyEn : Bool) (periodReg counter : Nat) : Nat :=
  if dutyEn = false then 0
  else if periodReg ≤ counter + 1 then 0
  else counter + 1

/-- TICK (R96). -/
def tick (s : State) : State := { s with counter := nextCounter s.dutyEn s.periodReg s.counter }

/-- PROGRAM(P): the three writes at one edge (R101, R102). -/
def program (p : Nat) (s : State) : State := { s with periodReg := p, dutyEn := true, counter := 0 }

/-- SILENCE (R103). -/
def silence (s : State) : State := { s with dutyEn := false, counter := 0 }

/-! The gate state machine and the ports. -/

/-- EDGE DETECT and the octave sampling of every non-reset cycle: `gate_prev <- in.gate`, `octave_q <- in.oct_sel`
(R106, R27). -/
def samplePorts (gate octSel : Bool) (s : State) : State := { s with gatePrev := gate, octaveQ := octSel }

/-- `state <- SOUNDING` (R22). -/
def enterSounding (s : State) : State := { s with state := .sounding }

/-- `state <- SILENT` (R22). -/
def enterSilent (s : State) : State := { s with state := .silent }

/-- Taking the block's one exception: VoltageOutOfRange sets `err_flag` and does nothing else, with no saved state, no mode
and no jump (R122, R124). -/
def raiseVoltageOutOfRange (s : State) : State := { s with errFlag := true }

/-- The end of the error: a FALL clears `err_flag`; there is no return-from-trap (R125). -/
def clearError (s : State) : State := { s with errFlag := false }

/-- Every register takes its reset value (R33, R136); the run has now had its RESET (R34). -/
def resetRegisters (s : State) : State :=
  { s with
    state := .silent
    gatePrev := false
    octaveQ := false
    errFlag := false
    dutyEn := false
    periodReg := 0
    counter := 0
    wasReset := true }

end Sys2Proof.Machine
end

