-- ==== Sys2Proof/Machine/Operands.lean ====
section
/-! DEFINITION. The operands of a cycle: the sampled inputs (R67, R73) and QUANTIZE, which turns the sample into a
note or the out-of-range condition, in its normative form (R74) and as the comparator bank with a priority encoder (R75). -/

namespace Sys2Proof.Machine

/-- The bit of a binary level; a non-binary level has none (R63(c)). -/
def Level.bit? : Level → Option Bool
  | .low => some false
  | .high => some true
  | .nonBinary => none

/-- The level of a bit (R55). -/
def Level.ofBit (b : Bool) : Level := if b then .high else .low

/-- The inputs sampled at the edge, if every one-bit port carries a bit (R67, R63(c)). -/
def Pins.sample (p : Pins) : Option Inputs :=
  match p.rst.bit?, p.gate.bit?, p.octSel.bit? with
  | some r, some g, some o => some ⟨r, g, o, p.cvCode⟩
  | _, _, _ => none

/-- The pins that carry the inputs of a cycle. -/
def pinsOf (v : Inputs) : Pins := ⟨.ofBit v.rst, .ofBit v.gate, .ofBit v.octSel, v.cvCode⟩

/-- The result of QUANTIZE (R74). -/
structure Quantized where
  oor : Bool
  note : Note
  deriving DecidableEq, Repr

/-- The ascending search of R74: the smallest index whose threshold stands above the sample, or the length. -/
def firstAbove (s : Nat) : List Nat → Nat
  | [] => 0
  | t :: rest => if s < t then 0 else firstAbove s rest + 1

theorem firstAbove_le_length (s : Nat) (l : List Nat) : firstAbove s l ≤ l.length := by
  induction l with
  | nil => exact Nat.le_refl 0
  | cons t rest ih =>
    simp only [firstAbove, List.length_cons]
    split <;> omega

/-- `i - 1` for the index `i` found, and 0 below the lowest threshold (R74, R78). -/
def floorNote (c : LegalConfig) (s : Nat) : Note :=
  ⟨firstAbove s c.val.thresh - 1, by
    have h1 := firstAbove_le_length s c.val.thresh
    have h2 := legal_thresh_length c
    omega⟩

/-- QUANTIZE, normative form: out of range at or above `THRESH[60]`, with the unused note 0; else the search (R74, R77). -/
def quantize (c : LegalConfig) (s : Nat) : Quantized :=
  if topThreshold c ≤ s then ⟨true, 0⟩ else ⟨false, floorNote c s⟩

/-- The 61 parallel comparators `c[i] = (s >= ROM_T(i))` (R75). -/
def comparators (c : LegalConfig) (s : Nat) : List Bool := c.val.thresh.map (fun t => decide (t ≤ s))

/-- The greatest index whose bit is set. -/
def highestSet : List Bool → Option Nat
  | [] => none
  | b :: rest =>
    match highestSet rest with
    | some i => some (i + 1)
    | none => if b then some 0 else none

/-- QUANTIZE, hardware form: comparator bank and priority encoder, as the pair `(oor, note)` (R75). -/
def quantizeBank (c : LegalConfig) (s : Nat) : Bool × Nat :=
  let bank := comparators c s
  let oor := (bank[60]?).getD false
  (oor, if oor then 0 else (highestSet (bank.take 60)).getD 0)

end Sys2Proof.Machine
end

