-- ==== Sys2Proof/Machine/Gate.lean ====
section
/-! DEFINITION. The meanings of the five gate events (R107 to R110). Every operation reads the registers of the state it is
given, so the bank of a RISE is the Octave Flag before this cycle's sampling (R86, R112). -/

namespace Sys2Proof.Machine

/-- IDLE_LOW (R110): TICK and the ports; `gate` is low. -/
def execIdleLow (octSel : Bool) (s : State) : Host.Outcome State Fault Refusal :=
  .next (samplePorts false octSel (tick s))

/-- IDLE_HIGH (R110): TICK and the ports; `gate` is high. -/
def execIdleHigh (octSel : Bool) (s : State) : Host.Outcome State Fault Refusal :=
  .next (samplePorts true octSel (tick s))

/-- RISE_VALID (R108): QUANTIZE, LOOKUP in the bank of `octave_q`, PROGRAM, SOUNDING; `err_flag` is kept. -/
def execRiseValid (octSel : Bool) (cvCode : Nat) (s : State) : Host.Outcome State Fault Refusal :=
  if (quantize s.cfg cvCode).oor then .refused .mismatchedRise
  else .next (samplePorts true octSel (enterSounding (program (lookup s.cfg s.octaveQ (quantize s.cfg cvCode).note) s)))

/-- RISE_OOR (R107): VoltageOutOfRange, SOUNDING, TICK; `period_reg` and `duty_en` are kept. -/
def execRiseOor (octSel : Bool) (cvCode : Nat) (s : State) : Host.Outcome State Fault Refusal :=
  if (quantize s.cfg cvCode).oor then .next (samplePorts true octSel (enterSounding (raiseVoltageOutOfRange (tick s))))
  else .refused .mismatchedRise

/-- FALL (R109): clear the error, SILENCE, SILENT; `period_reg` is kept. -/
def execFall (octSel : Bool) (s : State) : Host.Outcome State Fault Refusal :=
  .next (samplePorts false octSel (enterSilent (silence (clearError s))))

end Sys2Proof.Machine
end

