-- ==== Sys2Proof/Machine/Reset.lean ====
section
/-! DEFINITION. The meaning of RESET (R136). -/

namespace Sys2Proof.Machine

/-- RESET: every register to its reset value, whatever the other inputs are (R57, R136). -/
def execReset (s : State) : Host.Outcome State Fault Refusal := .next (resetRegisters s)

end Sys2Proof.Machine
end

