-- ==== Sys2Proof/Machine/Dispatch.lean ====
section
/-! DEFINITION. The meaning of each operation: one arm for each constructor of Instr. -/

namespace Sys2Proof.Machine

def exec (i : Instr) (s : State) : Host.Outcome State Fault Refusal :=
  match i with
  | .reset => Sys2Proof.Machine.execReset s
  | .idleLow octSel => Sys2Proof.Machine.execIdleLow octSel s
  | .riseValid octSel cvCode => Sys2Proof.Machine.execRiseValid octSel cvCode s
  | .riseOor octSel cvCode => Sys2Proof.Machine.execRiseOor octSel cvCode s
  | .fall octSel => Sys2Proof.Machine.execFall octSel s
  | .idleHigh octSel => Sys2Proof.Machine.execIdleHigh octSel s

end Sys2Proof.Machine
end

