-- ==== Sys2Proof/Machine/Fetch.lean ====
section
/-! DEFINITION. What a cycle presents to the block, and how a test word is presented: the pieces of the step and of
`State.withFetchWord` that are not the step itself. -/

namespace Sys2Proof.Machine

/-- Whether the run may take this cycle: it has had its RESET, or this is one (R34, R137(b)). -/
def mayRun (s : State) (v : Inputs) : Bool := s.wasReset || v.rst

/-- Whether `cv_code` is a code of the block's port (R53, R56). -/
def portFits (s : State) (v : Inputs) : Bool := v.fits s.cfg.val.sampleW

/-- The operation of a cycle that samples `v` (R58). -/
def decodeIn (s : State) (v : Inputs) : Instr := decode (topThreshold s.cfg) s.gatePrev v

/-- A word of spec/opcode_table.json presented as the next and only cycle: its `rst`, `gate`, `oct_sel` and `cv_code` as the
input vector, its `gate_prev` bit in the register the operation word reads it from, in a run that has had its RESET
(log 14). -/
def presentTableWord (s : State) (w : Nat) : State :=
  { s with script := [pinsOf (tableInputs w)], gatePrev := tableGatePrev w, wasReset := true }

end Sys2Proof.Machine
end

