-- ==== Sys2Proof/Machine/Step.lean ====
section
/-! DEFINITION. One step: one `clk` cycle, the edge of which samples the script's next input vector (R54, R112). -/

namespace Sys2Proof.Machine

/-- One cycle (R54, R58, R112). The sampled vector leaves the script; the operation it selects runs on the registers. -/
def step (s : State) : Host.Outcome State Fault Refusal :=
  match s.script with
  | [] => .refused .scriptEnded
  | pins :: rest =>
    match pins.sample with
    | none => .refused .nonBinaryInput
    | some v =>
      if portFits s v then
        if mayRun s v then exec (decodeIn s v) { s with script := rest } else .refused .runWithoutReset
      else .refused .codeTooWide

/-- The state whose very next step runs the operation of a table word (log 14). -/
def State.withFetchWord (s : State) (_nbits w : Nat) : State := presentTableWord s w

end Sys2Proof.Machine
end

