-- ==== Sys2Proof/Machine/Cycle.lean ====
section
/-! DEFINITION. The cycle step of R112, written as R112 writes it: one function of the registers and the inputs, apart from
the per-event meanings, for the refinement statement to compare them with. -/

namespace Sys2Proof.Machine

/-- `step(S, in)` of R112. `gate`, `octSel`, `cv` are the bits of `in`; all reads are of `S`, and a later assignment
replaces the TICK result. The run bookkeeping (`wasReset`) follows R34. -/
def cycleStep (S : State) (v : Inputs) : State :=
  if v.rst then
    { S with
      state := .silent
      gatePrev := false
      octaveQ := false
      errFlag := false
      dutyEn := false
      periodReg := 0
      counter := 0
      wasReset := true }
  else
    let S' : State :=
      { S with
        gatePrev := v.gate
        octaveQ := v.octSel
        counter :=
          if S.dutyEn then (if S.periodReg ≤ S.counter + 1 then 0 else S.counter + 1) else 0 }
    match S.gatePrev, v.gate with
    | false, true =>
      let q := quantize S.cfg v.cvCode
      if q.oor then { S' with state := .sounding, errFlag := true }
      else
        { S' with
          state := .sounding
          periodReg := lookup S.cfg S.octaveQ q.note
          dutyEn := true
          counter := 0 }
    | true, false => { S' with errFlag := false, dutyEn := false, counter := 0, state := .silent }
    | _, _ => S'

end Sys2Proof.Machine
end

