-- ==== Sys2Proof/Machine/Flags.lean ====
section
/-! DEFINITION. The outputs: each is a function of the registers alone (R53, R99, R129). The block's one flag, `err_flag`,
is set and cleared by operations of Sys2Proof/Machine/Ops.lean; no other flag exists. -/

namespace Sys2Proof.Machine

/-- The bit of the gate state: 0 = SILENT, 1 = SOUNDING (R61). -/
def GateState.bit : GateState → Bool
  | .silent => false
  | .sounding => true

/-- `osc_out = duty_en AND (counter < (period_reg >> 1))` (R99). -/
def oscOut (s : State) : Bool := s.dutyEn && decide (s.counter < s.periodReg >>> 1)

/-- The output ports in one cycle (R53, R121). -/
structure Outputs where
  oscOut : Bool
  gateLed : Bool
  errLed : Bool
  oct1Led : Bool
  oct2Led : Bool
  deriving DecidableEq, Repr

/-- The output ports as functions of the registers (R99, R129). -/
def outputs (s : State) : Outputs :=
  { oscOut := oscOut s
    gateLed := s.state.bit
    errLed := s.errFlag
    oct1Led := !s.octaveQ
    oct2Led := s.octaveQ }

end Sys2Proof.Machine
end

