-- ==== Sys2Proof/Machine/Script.lean ====
section
/-! DEFINITION. The host's side of a run: the stimulus notation of R65 and R66, the start of a run (R137), and what a run
lets the host observe (R119, R121). -/

namespace Sys2Proof.Machine

/-- One statement of a stimulus script (R65, R66). -/
inductive Stmt where
  /-- `RST` (R65). -/
  | rst
  /-- `CYC g=<0|1> o=<0|1> cv=<code>` (R65). -/
  | cyc (g o : Bool) (cv : Nat)
  /-- `WAIT <n>` (R65). -/
  | wait (n : Nat)
  /-- `NOTE_ON cv=<code> o=<b>` (R66). -/
  | noteOn (cv : Nat) (o : Bool)
  /-- `NOTE_OFF` (R66). -/
  | noteOff
  /-- `HOLD <n>` (R66). -/
  | hold (n : Nat)
  /-- `OCT <b>` (R66). -/
  | oct (b : Bool)
  deriving DecidableEq, Repr

/-- The cycle of a vector, if its code is one of `SAMPLE_W = w` bits (R65: `cv` is 0..2^SAMPLE_W-1; log 17). -/
def oneCycle (w : Nat) (v : Inputs) : Option (List Inputs) := if v.fits w then some [v] else none

/-- The cycles of one statement after a statement that ended with the inputs `prev` (none for the first statement); none for
an error: `WAIT` or another statement that repeats the previous inputs standing first, a count of 0, or a code that
`SAMPLE_W = w` bits do not hold (R65; log 17). -/
def Stmt.cycles (w : Nat) (prev : Option Inputs) : Stmt → Option (List Inputs)
  | .rst => some [⟨true, false, false, 0⟩]
  | .cyc g o cv => oneCycle w ⟨false, g, o, cv⟩
  | .noteOn cv o => oneCycle w ⟨false, true, o, cv⟩
  | .wait n | .hold n =>
    match prev with
    | none => none
    | some v => if n = 0 then none else some (List.replicate n { v with rst := false })
  | .noteOff => prev.map (fun v => [{ v with rst := false, gate := false }])
  | .oct b => prev.map (fun v => [{ v with rst := false, octSel := b }])

/-- The cycles of a script, after a statement that ended with `prev` (R65). -/
def expandFrom (w : Nat) (prev : Option Inputs) : List Stmt → Option (List Inputs)
  | [] => some []
  | stmt :: rest =>
    match stmt.cycles w prev with
    | none => none
    | some vs =>
      match expandFrom w (vs.getLast?.or prev) rest with
      | none => none
      | some more => some (vs ++ more)

/-- The cycles of a whole script (R65). -/
def expandScript (w : Nat) (stmts : List Stmt) : Option (List Inputs) := expandFrom w none stmts

/-- The start of a run: the block is built with the configuration, which is refused unless it passes the check (R63(b),
R137(a)); the registers hold whatever `s` holds, and no cycle but RESET runs yet (R34, R137(b)). -/
def startRun (c : Config) (cycles : List Inputs) (s : State) : Host.Outcome State Fault Refusal :=
  if h : configOk c = true then .next { s with cfg := ⟨c, h⟩, script := cycles.map pinsOf, wasReset := false }
  else .refused .badConfiguration

/-- `k` cycles, stopping at the first refusal: the host's `Core.run` on this machine's own types (R119). -/
def runCycles : Nat → State → Host.Outcome State Fault Refusal
  | 0, s => .next s
  | k + 1, s =>
    match step s with
    | .next s' => runCycles k s'
    | .fault r => .fault r
    | .refused r => .refused r

/-- The outputs after each of the first `k` cycles, as far as the run goes (R119, R121). -/
def outputTrace : Nat → State → List Outputs
  | 0, _ => []
  | k + 1, s =>
    match step s with
    | .next s' => outputs s' :: outputTrace k s'
    | .fault _ => []
    | .refused _ => []

end Sys2Proof.Machine
end

