-- ==== Sys2Proof/Safety.lean ====
section
/-! DEFINITION. What the claims call a consistent state and a completed cycle. -/

namespace Sys2Proof.Machine

/-- R30: the gate state follows the sampled gate. -/
def State.gateAgrees (s : State) : Prop := s.state.bit = s.gatePrev

/-- R31: a silent divider rests at phase 0, and a running one sounds, with a period of at least 2 and the phase inside
it. -/
def State.dividerConsistent (s : State) : Prop :=
  (s.dutyEn = false → s.counter = 0) ∧
    (s.dutyEn = true → s.state = .sounding ∧ 2 ≤ s.periodReg ∧ s.counter < s.periodReg)

/-- The lifetime of the error: it is set only while SOUNDING and only with the output silent (R104, R107, R109, R115). -/
def State.errorConsistent (s : State) : Prop := s.errFlag = true → s.state = .sounding ∧ s.dutyEn = false

/-- The programmed period is one a valid RISE took from the period ROM, notes 0..59, or none since reset (R26, R76,
R104). -/
def State.periodFromRom (s : State) : Prop :=
  s.periodReg = 0 ∨ ∃ (b : Bool) (n : Note), n.val ≤ 59 ∧ romP s.cfg (periodAddr b n) = some s.periodReg

/-- A state that a run can be in: anything before the first RESET (R34), and the invariants of R30 and R31 after it. -/
def State.Consistent (s : State) : Prop :=
  s.wasReset = true → s.gateAgrees ∧ s.dividerConsistent ∧ s.errorConsistent ∧ s.periodFromRom

/-- The step answers a next state: no fault and no refusal. -/
def State.Completes (s : State) : Prop := ∃ s', step s = .next s'

/-- `period_reg` and `counter` are numbers of `PERIOD_W` bits (R20, R62; log 4). -/
def State.registersFit (s : State) : Prop := s.periodReg < 2 ^ s.cfg.val.periodW ∧ s.counter < 2 ^ s.cfg.val.periodW

/-- The next cycle samples `v`, a code of the port, may run, and leaves `rest` of the script. -/
def State.Presents (s : State) (v : Inputs) (rest : List Pins) : Prop :=
  ∃ pins, s.script = pins :: rest ∧ pins.sample = some v ∧ portFits s v = true ∧ mayRun s v = true

/-- No cycle of the list is a FALL or a RESET, the gate standing at `gatePrev` before the first (R58). -/
def noFallOrReset : Bool → List Inputs → Bool
  | _, [] => true
  | gatePrev, v :: rest =>
    !v.rst && !(gatePrev && !v.gate) && noFallOrReset v.gate rest

end Sys2Proof.Machine
end

