-- ==== Sys2Proof/Certificates/Slice0/Obligations.lean ====
section
/-! DEFINITION. The statements for the provers. Each docstring names the rule it formalises, or says that it states the
model's own choice and which log entry. A frame is stated by the record update: every field not named keeps its value, and
with `cfg` unchanged every ROM word reads as before. -/

open Sys2Proof Sys2Proof.Machine

/-! ### The meaning of each operation -/

/-- R136, RESET: any vector with `rst` set selects it; it completes from every state, every register takes its reset value,
a second reset changes nothing, and the outputs after it are 0/0/0/1/0. -/
def Obligations.ResetWritesEveryRegister : Prop :=
  (∀ (top : Nat) (gatePrev : Bool) (v : Inputs), v.rst = true → decode top gatePrev v = .reset) ∧
    ∀ s : State, ∃ t, exec .reset s = .next t ∧
      t = { s with
            state := .silent
            gatePrev := false
            octaveQ := false
            errFlag := false
            dutyEn := false
            periodReg := 0
            counter := 0
            wasReset := true } ∧
      exec .reset t = .next t ∧ outputs t = ⟨false, false, false, true, false⟩

/-- R110, IDLE_LOW and IDLE_HIGH: selected by `gate` at the level of `gate_prev` whatever `cv_code` is; both complete from
every state, with TICK (R96) on the counter, the two ports sampled and nothing else changed. -/
def Obligations.IdleTicksAndSamplesPorts : Prop :=
  (∀ (top : Nat) (v : Inputs), v.rst = false →
    (v.gate = false → decode top false v = .idleLow v.octSel) ∧
      (v.gate = true → decode top true v = .idleHigh v.octSel)) ∧
    ∀ (s : State) (o : Bool), ∃ k : Nat,
      exec (.idleLow o) s = .next { s with counter := k, gatePrev := false, octaveQ := o } ∧
        exec (.idleHigh o) s = .next { s with counter := k, gatePrev := true, octaveQ := o } ∧
        (s.dutyEn = false → k = 0) ∧
        (s.dutyEn = true → s.periodReg ≤ s.counter + 1 → k = 0) ∧
        (s.dutyEn = true → s.counter + 1 < s.periodReg → k = s.counter + 1)

/-- R109, FALL: selected by `gate` low after `gate_prev` high whatever `cv_code` is; it completes from every state, clears
the error, silences the divider and returns to SILENT, and keeps `period_reg`; `osc_out` is 0 afterwards. -/
def Obligations.FallSilencesAndClearsError : Prop :=
  (∀ (top : Nat) (v : Inputs), v.rst = false → v.gate = false →
    decode top true v = .fall v.octSel) ∧
    ∀ (s : State) (o : Bool), ∃ t, exec (.fall o) s = .next t ∧
      t = { s with
            errFlag := false
            dutyEn := false
            counter := 0
            state := .silent
            gatePrev := false
            octaveQ := o } ∧
      (outputs t).oscOut = false

/-- R107, RISE_OOR: selected by a rising gate with a sample at or above `THRESH[60]`; on such a sample it completes from
every state, sets `err_flag`, becomes SOUNDING and runs TICK; `period_reg` and `duty_en` are kept, so a silent output
stays silent. -/
def Obligations.RiseOutOfRangeRaisesError : Prop :=
  (∀ (top : Nat) (v : Inputs), v.rst = false → v.gate = true → top ≤ v.cvCode →
    decode top false v = .riseOor v.octSel v.cvCode) ∧
    ∀ (s : State) (o : Bool) (cv t : Nat), romT s.cfg 60#6 = some t → t ≤ cv →
      exec (.riseOor o cv) s = .next
          { s with
            errFlag := true
            state := .sounding
            counter :=
              if s.dutyEn = true then (if s.periodReg ≤ s.counter + 1 then 0 else s.counter + 1)
              else 0
            gatePrev := true
            octaveQ := o } ∧
        (s.dutyEn = false → ∀ s', exec (.riseOor o cv) s = .next s' → oscOut s' = false)

/-- R108, RISE_VALID: selected by a rising gate with a sample below `THRESH[60]`; on such a sample it completes from every
state and programs the period that the ROM holds for the sample's note in the bank of the OLD `octave_q`, with the note as
R74 gives it (0..59); `err_flag` is kept. (The corner that R108 marks as its own inference, no error at such a RISE in a
reachable state, is in EveryRiseStartsSilent.) -/
def Obligations.RiseValidProgramsTheNote : Prop :=
  (∀ (top : Nat) (v : Inputs), v.rst = false → v.gate = true → v.cvCode < top →
    decode top false v = .riseValid v.octSel v.cvCode) ∧
    ∀ (s : State) (o : Bool) (cv t : Nat), romT s.cfg 60#6 = some t → cv < t →
      ∃ (n : Note) (p : Nat), n.val ≤ 59 ∧
        (∀ u, 0 < n.val → romT s.cfg (BitVec.ofNat 6 n.val) = some u → u ≤ cv) ∧
        (∀ u, romT s.cfg (BitVec.ofNat 6 (n.val + 1)) = some u → cv < u) ∧
        romP s.cfg (BitVec.ofBool s.octaveQ ++ BitVec.ofNat 6 n.val) = some p ∧
        exec (.riseValid o cv) s = .next
          { s with
            periodReg := p
            dutyEn := true
            counter := 0
            state := .sounding
            gatePrev := true
            octaveQ := o }

/-- The model's choice (log 11; R58, R77): a RISE whose sample stands on the other side of `THRESH[60]` than its row
asks for is refused. The decoder makes none. -/
def Obligations.MismatchedRiseRefused : Prop :=
  ∀ (s : State) (o : Bool) (cv t : Nat), romT s.cfg 60#6 = some t →
    (exec (.riseValid o cv) s = .refused .mismatchedRise ↔ t ≤ cv) ∧
      (exec (.riseOor o cv) s = .refused .mismatchedRise ↔ cv < t)

/-! ### The quantizer -/

/-- R74: at or above `THRESH[60]` the result is `(1, 0)`; below it there is a smallest index `i <= 60` whose threshold
stands above the sample, and the result is `(0, i - 1)`, or `(0, 0)` for `i = 0`. -/
def Obligations.QuantizeFindsSmallestThresholdAbove : Prop :=
  ∀ (c : LegalConfig) (s top : Nat), romT c 60#6 = some top →
    (top ≤ s → quantize c s = ⟨true, 0⟩) ∧
      (s < top → ∃ i t, i ≤ 60 ∧ romT c (BitVec.ofNat 6 i) = some t ∧ s < t ∧
        (∀ j u, j < i → romT c (BitVec.ofNat 6 j) = some u → u ≤ s) ∧
        (quantize c s).oor = false ∧ (quantize c s).note.val = i - 1)

/-- R75, the inference it marks as its own: the comparator bank is a thermometer code, and with the priority encoder it
gives the search's result for every sample. -/
def Obligations.ComparatorBankEqualsSearch : Prop :=
  ∀ (c : LegalConfig) (s : Nat),
    (∀ i j : Nat, i ≤ j → (comparators c s)[j]? = some true → (comparators c s)[i]? = some true) ∧
      quantizeBank c s = ((quantize c s).oor, (quantize c s).note.val)

/-- R76, which the spec marks as its own inference: a valid note is in 0..59, note 60 is never produced, and note 59
results exactly between the last two thresholds. -/
def Obligations.NoteIsAtMost59 : Prop :=
  ∀ (c : LegalConfig) (s t59 t60 : Nat), romT c 59#6 = some t59 → romT c 60#6 = some t60 →
    ((quantize c s).oor = false → (quantize c s).note.val ≤ 59) ∧
      ((quantize c s).note.val ≠ 60) ∧
      ((quantize c s).oor = false ∧ (quantize c s).note.val = 59 ↔ t59 ≤ s ∧ s < t60)

/-- R77: out of range is exactly at or above `THRESH[60]`, the note is then 0, and for the default table under the
default width and reference voltage these are the codes from 63629 on, those of values of at least 3.204. -/
def Obligations.OutOfRangeAtTopThreshold : Prop :=
  ∀ (c : LegalConfig) (s top : Nat), romT c 60#6 = some top →
    ((quantize c s).oor = true ↔ top ≤ s) ∧ ((quantize c s).oor = true → (quantize c s).note = 0) ∧
      (c.val.isDefault = true → c.val.sampleW = 16 → c.val.vref.value = 3.3 →
        ((quantize c s).oor = true ↔ 63629 ≤ s) ∧
        ((quantize c s).oor = true ↔ (3.204 : ℚ) ≤ (s : ℚ) * 3.3 / 65535))

/-- R78, which the spec marks as its own inference: below the lowest threshold the result is `(0, 0)`, and note 0 is
valid for exactly the samples below `THRESH[1]`. -/
def Obligations.NoteZeroBelowSecondThreshold : Prop :=
  ∀ (c : LegalConfig) (s t0 t1 : Nat), romT c 0#6 = some t0 → romT c 1#6 = some t1 →
    (s < t0 → quantize c s = ⟨false, 0⟩) ∧ (s < t1 ↔ quantize c s = ⟨false, 0⟩)

/-- R79, which the spec marks as its own inference: the note does not fall as the sample rises, within range. -/
def Obligations.QuantizeIsMonotone : Prop :=
  ∀ (c : LegalConfig) (s1 s2 top : Nat), romT c 60#6 = some top → s1 < s2 → s2 < top →
    (quantize c s1).note ≤ (quantize c s2).note

/-- R82, which the spec marks as its own inference, with the two corners that R74 and R78 set right (log 12): (a) a
valid sample on boundary `i` gives a note of at least `i`; (b) a sample on the top boundary is out of range; (c) a run
of equal thresholds from `j >= 1` to `k` skips the notes `j..k-1`, and valid samples at or above it give at least `k`;
(d) note 59 is skipped where the last two are equal. -/
def Obligations.ThresholdEqualityCorners : Prop :=
  ∀ (c : LegalConfig) (s top : Nat), romT c 60#6 = some top →
    (∀ i, i ≤ 59 → romT c (BitVec.ofNat 6 i) = some s → s < top → i ≤ (quantize c s).note.val) ∧
      (s = top → (quantize c s).oor = true) ∧
      (∀ j k t, 1 ≤ j → j < k → k ≤ 59 → romT c (BitVec.ofNat 6 j) = some t → romT c (BitVec.ofNat 6 k) = some t →
        s < top →
        ((quantize c s).note.val < j ∨ k ≤ (quantize c s).note.val) ∧ (t ≤ s → k ≤ (quantize c s).note.val)) ∧
      (romT c 59#6 = some top → s < top → (quantize c s).note.val ≠ 59)

/-! ### The ROMs and the configuration -/

/-- R41 and R42: the threshold ROM answers word `i` of `THRESH` for 0..60, a code of `SAMPLE_W` bits, and refuses
exactly the reserved indexes 61..63. -/
def Obligations.ThresholdRomMap : Prop :=
  ∀ (c : LegalConfig) (i : ThreshIndex),
    romT c i = c.val.thresh[i.toNat]? ∧ (romT c i = none ↔ 61 ≤ i.toNat) ∧
      ∀ t, romT c i = some t → t < 2 ^ c.val.sampleW

/-- R44, the address map: the period ROM answers `PERIOD_ROM[b][n]` at the address `{b, n}` for notes 0..60, and refuses
exactly the addresses 0x3D..0x3F and 0x7D..0x7F; the threshold ROM answers at 0x00..0x3C and refuses 0x3D..0x3F. -/
def Obligations.PeriodRomMap : Prop :=
  ∀ c : LegalConfig,
    (∀ (b : Bool) (n : Nat), n ≤ 60 →
      ∃ p, romP c (BitVec.ofBool b ++ BitVec.ofNat 6 n) = some p ∧ (periodRom c.val b)[n]? = some p) ∧
      (∀ addr : PeriodAddr, romP c addr = none ↔
        (0x3D ≤ addr.toNat ∧ addr.toNat ≤ 0x3F) ∨ (0x7D ≤ addr.toNat ∧ addr.toNat ≤ 0x7F)) ∧
      ∀ i : ThreshIndex, (i.toNat ≤ 0x3C → romT c i = c.val.thresh[i.toNat]? ∧ (romT c i).isSome = true) ∧
        (0x3D ≤ i.toNat → romT c i = none)

/-- R89: every word of the period ROM is `floor(F_CLK / FREQ_HZ + 1/2)` in exact arithmetic, and at the default clock the
four pinned entries are 61162, 43253, 1911 and 1911. -/
def Obligations.PeriodRomHoldsRoundedReciprocal : Prop :=
  ∀ c : LegalConfig,
    (∀ (b : Bool) (n : Note), ∃ (f : Ratio) (p : Nat), (freqBank c.val b)[n.val]? = some f ∧
      romP c (periodAddr b n) = some p ∧
      (p : ℤ) = ⌊c.val.fClk.value / f.value + 1 / 2⌋) ∧
      (c.val.fClk.value = 1000000 →
        romP c 0x00#7 = some 61162 ∧ romP c 0x06#7 = some 43253 ∧ romP c 0x3C#7 = some 1911 ∧
          romP c 0x40#7 = some 1911)

/-- The error bound that R89 marks as its own inference: the frequency that a word gives is off by at most `1 / (2 P)`
of the frequency asked for. -/
def Obligations.FrequencyErrorWithinBound : Prop :=
  ∀ (c : LegalConfig) (b : Bool) (n : Note) (f : Ratio) (p : Nat), (freqBank c.val b)[n.val]? = some f →
    romP c (periodAddr b n) = some p →
    |c.val.fClk.value / (p : ℚ) - f.value| / f.value ≤ 1 / (2 * (p : ℚ))

/-- R90: every word of a legal period ROM is in `2 .. 2^PERIOD_W - 1`, and (the rule's own inference, for any width) for
a positive frequency the check holds exactly when `F_CLK / (2^PERIOD_W - 1/2) < f <= F_CLK / 1.5`; with 16 bits the
lower bound is `F_CLK / 65535.5`. -/
def Obligations.PeriodRangeIsFrequencyRange : Prop :=
  (∀ (c : LegalConfig) (addr : PeriodAddr) (p : Nat), romP c addr = some p → 2 ≤ p ∧ p ≤ 2 ^ c.val.periodW - 1) ∧
    ∀ (w : Nat) (fClk f : Ratio), fClk.positive = true → f.positive = true →
      (periodInRange w (periodOf fClk f) = true ↔
        fClk.value / (2 ^ w - 1 / 2) < f.value ∧ f.value ≤ fClk.value / (3 / 2))

/-- R91, which the spec marks as its own inference: entry 60 of bank 0 and entry 0 of bank 1 hold one period, and no
quantized note reads an entry 60. -/
def Obligations.BandsOverlapAtNote60 : Prop :=
  ∀ (c : LegalConfig),
    (∃ p, romP c (periodAddr false 60) = some p ∧ romP c (periodAddr true 0) = some p) ∧
      ∀ s : Nat, (quantize c s).note ≠ 60

/-- R7 and R8: a configuration is refused exactly if it fails one of the checks: the counts, the order, the default
table's two pins, the positive, ordered and pinned frequencies, and the period range. -/
def Obligations.ConfigCheckMeansRules : Prop :=
  ∀ (c : Config) (vs : List Inputs) (s : State), startRun c vs s ≠ .refused .badConfiguration ↔
    c.thresh.length = 61 ∧ (∀ t ∈ c.thresh, t < 2 ^ c.sampleW) ∧
    (∀ i a b, c.thresh[i]? = some a → c.thresh[i + 1]? = some b → a ≤ b) ∧
    (c.isDefault = true → c.sampleW = 16 → c.vref.value = 3.3 →
      c.thresh[60]? = some 63629 ∧
        (∃ a, c.thresh[6]? = some a ∧ a ≤ 12908) ∧ ∃ b, c.thresh[7]? = some b ∧ 12908 < b) ∧
    c.freq0.length = 61 ∧ c.freq1.length = 61 ∧
    (∀ f, f ∈ c.freq0 ∨ f ∈ c.freq1 → 0 < f.num ∧ 0 < f.den) ∧
    (∀ i f g, (c.freq0[i]? = some f ∧ c.freq0[i + 1]? = some g) ∨ (c.freq1[i]? = some f ∧ c.freq1[i + 1]? = some g) →
      f.value ≤ g.value) ∧
    (∃ a b d e : Ratio, c.freq0[0]? = some a ∧ c.freq0[6]? = some b ∧ c.freq0[60]? = some d ∧ c.freq1[0]? = some e ∧
      a.value = (16.35 : ℚ) ∧ b.value = (23.12 : ℚ) ∧ d.value = (523.25 : ℚ) ∧ e.value = (523.25 : ℚ)) ∧
    ∀ f, f ∈ c.freq0 ∨ f ∈ c.freq1 → 2 ≤ periodOf c.fClk f ∧ periodOf c.fClk f ≤ 2 ^ c.periodW - 1

/-- R63(b), R123 with R34: a run is refused exactly for a configuration that fails the check, and otherwise it starts with
the registers as they were and the reset still to come. -/
def Obligations.StartRunRefusesBadConfiguration : Prop :=
  ∀ (c : Config) (vs : List Inputs) (s : State),
    (startRun c vs s = .refused .badConfiguration ↔ configOk c = false) ∧
      ∀ h : configOk c = true,
        startRun c vs s = .next { s with cfg := ⟨c, h⟩, script := vs.map pinsOf, wasReset := false }

/-- The model's choice (log 3): the OPEN tables of the state after reset leave out no legal default table with the default
clock, widths and reference voltage: each is the one that some free values give. -/
def Obligations.OpenTablesReachEveryLegalTable : Prop :=
  ∀ c : Config, configOk c = true → c.isDefault = true → c.fClk = Config.defaultClock →
    c.sampleW = Config.defaultSampleW → c.periodW = Config.defaultPeriodW → c.vref = Config.defaultVref →
    ∃ (rawT : Nat → Nat) (rawF : Bool → Nat → Nat × Nat), configOf rawT rawF = c

/-- R11, for every `SAMPLE_W` and `VREF`: the conversions are the ceiling and the floor the rule says, a code comparison
against a threshold's code answers as the comparison of the values does, and with the defaults 3.204 and 0.65 have the codes
63629 and 12908. -/
def Obligations.UnitConversionsPreserveOrder : Prop :=
  (∀ (w : Nat) (vref t : Ratio), 0 < w → vref.positive = true → 0 < t.den →
    (thresholdCode w vref t : ℤ) = ⌈t.value * (2 ^ w - 1) / vref.value⌉ ∧
      (sampleCode w vref t : ℤ) = ⌊t.value * (2 ^ w - 1) / vref.value⌋ ∧
      ∀ s : Nat, (s < thresholdCode w vref t ↔ (s : ℚ) * vref.value / (2 ^ w - 1) < t.value)) ∧
    thresholdCode 16 Config.defaultVref ⟨3204, 1000⟩ = 63629 ∧ sampleCode 16 Config.defaultVref ⟨65, 100⟩ = 12908

/-! ### The divider -/

/-- R96: what TICK does to the counter in every case, its corners (a), (b) and (c) among them, and that it changes
nothing else; what it stores stands below `period_reg`, or is 0. -/
def Obligations.TickCountsWithinPeriod : Prop :=
  ∀ s : State, ∃ k : Nat, tick s = { s with counter := k } ∧
    (s.dutyEn = false → k = 0) ∧
    (s.dutyEn = true → s.periodReg ≤ s.counter + 1 → k = 0) ∧
    (s.dutyEn = true → s.counter + 1 < s.periodReg → k = s.counter + 1) ∧
    (s.dutyEn = true → s.periodReg ≤ s.counter → k = 0) ∧
    (s.dutyEn = true → s.periodReg ≤ 1 → k = 0) ∧ (k = 0 ∨ k < s.periodReg)

/-- R101: PROGRAM writes period, duty and phase together and nothing else, programming the same period again restarts the
phase, and the output is high in the cycle after it for a period of at least 2. -/
def Obligations.ProgramRestartsPhaseHigh : Prop :=
  ∀ (s : State) (p : Nat),
    program p s = { s with periodReg := p, dutyEn := true, counter := 0 } ∧
      program p (tick (program p s)) = program p s ∧
      (2 ≤ p → oscOut (program p s) = true)

/-- R103: SILENCE clears duty and phase, keeps the period and everything else, leaves a silent divider at rest as it
was, and gives an output of 0. -/
def Obligations.SilenceKeepsPeriod : Prop :=
  ∀ s : State, silence s = { s with dutyEn := false, counter := 0 } ∧ oscOut (silence s) = false ∧
    (s.dutyEn = false → s.counter = 0 → silence s = s)

/-- R99: a running output is high for exactly `floor(P/2)` of the `P` phases, namely the first ones, and low for the other
`ceil(P/2)`; a silent output is 0. -/
def Obligations.WaveformHighForHalfThePeriod : Prop :=
  ∀ s : State,
    (s.dutyEn = false → oscOut s = false) ∧
      (s.dutyEn = true →
        (oscOut s = true ↔ s.counter < s.periodReg / 2) ∧
        (List.range s.periodReg).countP (fun k => oscOut { s with counter := k }) =
          s.periodReg / 2 ∧
        (List.range s.periodReg).countP (fun k => !oscOut { s with counter := k }) =
          (s.periodReg + 1) / 2)

/-- What R99 infers from its formula: the share of high phases is within `1 / (2P)` of one half, and is one half for an even
period. -/
def Obligations.DutyIsNearlyHalf : Prop :=
  ∀ s : State, s.dutyEn = true → 0 < s.periodReg →
    let high := (List.range s.periodReg).countP (fun k => oscOut { s with counter := k })
    |(high : ℚ) / s.periodReg - 1 / 2| ≤ 1 / (2 * (s.periodReg : ℚ)) ∧
      (s.periodReg % 2 = 0 → (high : ℚ) / s.periodReg = 1 / 2)

/-- R97, which the spec marks as its own inference, along a run: from a running divider, `k` cycles of held gate move
the phase by `k` modulo the period, whatever `oct_sel` and `cv_code` do meanwhile, keep everything else but the octave
flag, and give the output of that phase; so the counter is where it was exactly after whole periods. -/
def Obligations.CounterRunsModuloPeriod : Prop :=
  ∀ (vs : List Inputs) (rest : List Pins) (s : State),
    s.wasReset = true → s.gatePrev = true → s.dutyEn = true → s.counter < s.periodReg →
    (∀ v ∈ vs, v.rst = false ∧ v.gate = true ∧ v.fits s.cfg.val.sampleW = true) → s.script = vs.map pinsOf ++ rest →
    ∃ t : State, runCycles vs.length s = .next t ∧
      t = { s with counter := t.counter, octaveQ := t.octaveQ, script := rest } ∧
      t.counter = (s.counter + vs.length) % s.periodReg ∧
      (oscOut t = true ↔ (s.counter + vs.length) % s.periodReg < s.periodReg / 2) ∧
      (t.counter = s.counter ↔ s.periodReg ∣ vs.length)

/-! ### The cycle step -/

/-- R112: one step is the cycle step as R112 writes it, on the sampled vector: the per-event meanings refine it, every
binary cycle that may run completes, and the vector leaves the script. -/
def Obligations.StepRefinesCycleRule : Prop :=
  ∀ (s : State) (v : Inputs) (rest : List Pins), s.Presents v rest →
    step s = .next (cycleStep { s with script := rest } v)

/-- R54, R58: a step samples the next vector, takes it from the script and runs the operation that the decoder reads from it
and from `gate_prev`; that operation is well formed. -/
def Obligations.StepRunsDecodedOperation : Prop :=
  ∀ (s : State) (v : Inputs) (rest : List Pins) (top : Nat), s.Presents v rest → romT s.cfg 60#6 = some top →
    step s = exec (decode top s.gatePrev v) { s with script := rest } ∧
      (decode top s.gatePrev v).wellFormed s.cfg.val.sampleW top = true

/-- The model's refusals (logs 6, 7, 8, 20; R34, R53, R63(c), R119): which states the step refuses, and why; any other state
completes, and none faults (R120). -/
def Obligations.StepRefusesOnlyWhatTheSpecRefuses : Prop :=
  ∀ s : State,
    (step s = .refused .scriptEnded ↔ s.script = []) ∧
      (step s = .refused .nonBinaryInput ↔ ∃ pins rest, s.script = pins :: rest ∧
        (pins.rst = .nonBinary ∨ pins.gate = .nonBinary ∨ pins.octSel = .nonBinary)) ∧
      (step s = .refused .codeTooWide ↔ ∃ v rest pins, s.script = pins :: rest ∧ pins.sample = some v ∧
        2 ^ s.cfg.val.sampleW ≤ v.cvCode) ∧
      (step s = .refused .runWithoutReset ↔ ∃ v rest pins, s.script = pins :: rest ∧ pins.sample = some v ∧
        v.cvCode < 2 ^ s.cfg.val.sampleW ∧ v.rst = false ∧ s.wasReset = false) ∧
      (s.Completes ↔ ∃ v rest, s.Presents v rest) ∧
      ∀ f, step s ≠ .fault f

/-- R120: with 0 or 1 on every one-bit port and any code of `SAMPLE_W` bits on `cv_code`, in a run that had its reset or
in a RESET cycle, the step answers a next state, from every state of the registers. -/
def Obligations.EveryBinaryCycleCompletes : Prop :=
  ∀ (s : State) (pins : Pins) (rest : List Pins), s.script = pins :: rest →
    pins.rst ≠ .nonBinary → pins.gate ≠ .nonBinary → pins.octSel ≠ .nonBinary →
    pins.cvCode ≤ 2 ^ s.cfg.val.sampleW - 1 →
    s.wasReset = true ∨ pins.rst = .high → ∃ t, step s = .next t ∧ t.script = rest

/-- R57, R127(a): a cycle with `rst` set takes every register to its reset value, whatever the other inputs are, from any
state, also before the first reset (R34). -/
def Obligations.ResetOverridesEveryEvent : Prop :=
  ∀ (s : State) (v : Inputs) (rest : List Pins), s.script = pinsOf v :: rest →
    v.fits s.cfg.val.sampleW = true → v.rst = true →
    step s = .next
      { s with
        state := .silent
        gatePrev := false
        octaveQ := false
        errFlag := false
        dutyEn := false
        periodReg := 0
        counter := 0
        wasReset := true
        script := rest }

/-- R27 and R106, the sampling of the two ports: every non-reset cycle leaves `octave_q` at `oct_sel` and `gate_prev` at
`gate`. -/
def Obligations.PortsAreSampledEveryCycle : Prop :=
  ∀ (s t : State) (v : Inputs) (rest : List Pins), s.Presents v rest → v.rst = false → step s = .next t →
    t.octaveQ = v.octSel ∧ t.gatePrev = v.gate

/-- R106: every non-reset cycle leaves `gate_prev` at `gate`; a change of level is an edge event in its first cycle, and
every further cycle of that level is an IDLE cycle, however many there are. -/
def Obligations.HeldGateGivesOneEdge : Prop :=
  ∀ (s : State) (v : Inputs) (rest : List Pins), s.Presents v rest → v.rst = false →
    (∃ t, step s = .next t ∧ t.gatePrev = v.gate) ∧
      (s.gatePrev ≠ v.gate →
        (decodeIn s v).event = .rise ∧ v.gate = true ∨ (decodeIn s v).event = .fall ∧ v.gate = false) ∧
      ∀ (vs : List Inputs) (w : Inputs) (rest' : List Pins), rest = vs.map pinsOf ++ pinsOf w :: rest' →
        (∀ u ∈ w :: vs, u.rst = false ∧ u.gate = v.gate ∧ u.fits s.cfg.val.sampleW = true) →
        ∃ t, runCycles (vs.length + 1) s = .next t ∧ t.Presents w rest' ∧
          ((decodeIn t w).event = .idleLow ∨ (decodeIn t w).event = .idleHigh)

/-- R86, R143: the `oct_sel` level sampled at a RISE is not used for that RISE: two levels give the same state but for
`octave_q`, and the period is the one of the old flag's bank. -/
def Obligations.RiseUsesTheOldBank : Prop :=
  ∀ (s t t' : State) (o o' : Bool) (cv : Nat),
    exec (.riseValid o cv) s = .next t → exec (.riseValid o' cv) s = .next t' →
    t' = { t with octaveQ := o' } ∧ ∃ n : Note, romP s.cfg (periodAddr s.octaveQ n) = some t.periodReg

/-- R111, which the spec marks as its own inference: a RISE does not read `state`: it acts the same from SOUNDING as
from SILENT. -/
def Obligations.RiseDoesNotReadState : Prop :=
  ∀ (s : State) (x : GateState) (o : Bool) (cv : Nat),
    exec (.riseValid o cv) { s with state := x } = exec (.riseValid o cv) s ∧
      exec (.riseOor o cv) { s with state := x } = exec (.riseOor o cv) s

/-- R56, R73: outside a RISE cycle the value of `cv_code` has no effect. -/
def Obligations.SampleIgnoredOutsideRise : Prop :=
  ∀ (s : State) (r g o : Bool) (cv cv' : Nat) (rest : List Pins),
    ¬(r = false ∧ s.gatePrev = false ∧ g = true) → cv < 2 ^ s.cfg.val.sampleW → cv' < 2 ^ s.cfg.val.sampleW →
    step { s with script := pinsOf ⟨r, g, o, cv⟩ :: rest } = step { s with script := pinsOf ⟨r, g, o, cv'⟩ :: rest }

/-- R26, R93, R94: only a valid RISE or RESET changes `period_reg`, and only a valid RISE, a FALL or RESET changes
`duty_en`; so a change of the octave flag never re-programs the oscillator. -/
def Obligations.OnlyRiseFallResetProgram : Prop :=
  ∀ (s t : State) (v : Inputs) (rest : List Pins), s.Presents v rest → step s = .next t →
    (t.periodReg ≠ s.periodReg →
      decodeIn s v = .reset ∨ ∃ o cv, decodeIn s v = .riseValid o cv) ∧
      (t.dutyEn ≠ s.dutyEn →
        decodeIn s v = .reset ∨ (∃ o, decodeIn s v = .fall o) ∨ ∃ o cv, decodeIn s v = .riseValid o cv)

/-- R125, and of R122 who raises the error: `err_flag` rises only in a RISE cycle whose sample is at or above
`THRESH[60]`, and in every such cycle it is 1 afterwards; only FALL and RESET clear it, and both always do. -/
def Obligations.ErrorFlagSetAndCleared : Prop :=
  ∀ (s t : State) (v : Inputs) (rest : List Pins) (top : Nat), s.Presents v rest → romT s.cfg 60#6 = some top →
    step s = .next t →
    (s.errFlag = false → t.errFlag = true → (decodeIn s v).event = .rise ∧ top ≤ v.cvCode) ∧
      ((decodeIn s v).event = .rise → top ≤ v.cvCode → t.errFlag = true) ∧
      (s.errFlag = true → t.errFlag = false → (decodeIn s v).event = .fall ∨ (decodeIn s v).event = .reset) ∧
      ((decodeIn s v).event = .fall ∨ (decodeIn s v).event = .reset → t.errFlag = false)

/-- R115, which the spec marks as its own inference: a set `err_flag` stays set through any number of cycles with no
FALL and no RESET, valid RISEs included. -/
def Obligations.ErrorPersistsUntilFall : Prop :=
  ∀ (vs : List Inputs) (rest : List Pins) (s : State), s.wasReset = true → s.errFlag = true →
    s.script = vs.map pinsOf ++ rest → (∀ v ∈ vs, v.fits s.cfg.val.sampleW = true) →
    noFallOrReset s.gatePrev vs = true →
    ∃ t : State, runCycles vs.length s = .next t ∧ t.errFlag = true ∧ t.script = rest

/-- R32, R40, R51: no step changes the configuration, so every word of both ROMs reads as before, and a step takes exactly
one vector from the script. -/
def Obligations.StepKeepsBothRoms : Prop :=
  ∀ s t : State, step s = .next t →
    t.cfg = s.cfg ∧ (∀ i, romT t.cfg i = romT s.cfg i) ∧ (∀ a, romP t.cfg a = romP s.cfg a) ∧
      ∃ pins, s.script = pins :: t.script

/-- R98: the counter is seen in `osc_out` only: from states that differ in nothing else, the same cycle leads to states that
differ in nothing else, and the four status outputs agree. -/
def Obligations.CounterOnlyShowsInOscOut : Prop :=
  ∀ (s t : State) (k : Nat), step s = .next t →
    ∃ k', step { s with counter := k } = .next { t with counter := k' } ∧
      outputs { t with counter := k' } = { outputs t with oscOut := oscOut { t with counter := k' } }

/-! ### Invariants -/

/-- R30 and R31 (the spec's own inferences), with the lifetime of the error and the origin of the period (the model's
reading of R26, R104 and R115, log 18): a consistent state steps to a consistent state. -/
def Obligations.StepKeepsConsistent : Prop := ∀ s t : State, s.Consistent → step s = .next t → t.Consistent

/-- The widths of R20 and R62 (as invariants, log 4): from registers of `PERIOD_W` bits every step leads to registers of
`PERIOD_W` bits, so no stored sum and no programmed period is cut. -/
def Obligations.StepKeepsRegisterWidths : Prop := ∀ s t : State, s.registersFit → step s = .next t → t.registersFit

/-- The state after reset is consistent, its registers have the values of R33, and its configuration passes the check,
with the defaults of R6 for the clock, the widths and the reference voltage (the model's choice of a block, log 3). -/
def Obligations.StateAfterResetIsConsistent : Prop :=
  State.reset.Consistent ∧ State.reset.state = .silent ∧ State.reset.gatePrev = false ∧ State.reset.octaveQ = false ∧
    State.reset.errFlag = false ∧ State.reset.dutyEn = false ∧ State.reset.periodReg = 0 ∧
    State.reset.counter = 0 ∧ State.reset.registersFit ∧ configOk State.reset.cfg.val = true ∧
    State.reset.cfg.val.fClk.value = 1000000 ∧ State.reset.cfg.val.sampleW = 16 ∧ State.reset.cfg.val.periodW = 16 ∧
    State.reset.cfg.val.vref.value = 3.3

/-- R30 and R31, which the spec marks as its own inferences, along every run: from any register values, a run that has
had its reset shows `state = gate_prev`, a silent divider at phase 0, and a running one SOUNDING with a period of at
least 2 and the phase inside it, all in registers of `PERIOD_W` bits (R20; log 4), after any number of cycles. -/
def Obligations.EveryRunIsConsistent : Prop :=
  ∀ (c : Config) (vs : List Inputs) (s s0 t : State) (k : Nat), startRun c vs s = .next s0 →
    runCycles k s0 = .next t → t.wasReset = true →
    t.state.bit = t.gatePrev ∧ (t.dutyEn = false → t.counter = 0) ∧
      (t.dutyEn = true → t.state = .sounding ∧ 2 ≤ t.periodReg ∧ t.counter < t.periodReg) ∧ t.registersFit

/-- What R102, R104, R108 and R111 infer of reachable states, in consistent states: every RISE finds the block SILENT,
silent and without error, so PROGRAM never cuts a running period, and an out-of-range RISE leaves the output at 0. -/
def Obligations.EveryRiseStartsSilent : Prop :=
  ∀ (s t : State) (v : Inputs) (rest : List Pins), s.Consistent → s.Presents v rest →
    (decodeIn s v).event = .rise → step s = .next t →
    s.state = .silent ∧ s.dutyEn = false ∧ s.counter = 0 ∧ oscOut s = false ∧ s.errFlag = false ∧
      ((∃ o cv, decodeIn s v = .riseOor o cv) →
        t.periodReg = s.periodReg ∧ t.dutyEn = false ∧ oscOut t = false ∧ t.errFlag = true)

/-! ### Runs of two cycles -/

/-- R138, which the spec marks as its own inference: after a RESET cycle, a first cycle with `gate` high is a RISE in
bank 0 whatever `oct_sel` is, and leaves `octave_q` at `oct_sel`. -/
def Obligations.FirstCycleAfterResetUsesBankZero : Prop :=
  ∀ (s : State) (r v : Inputs) (rest : List Pins) (top : Nat), s.script = pinsOf r :: pinsOf v :: rest →
    r.fits s.cfg.val.sampleW = true → v.fits s.cfg.val.sampleW = true →
    r.rst = true → v.rst = false → v.gate = true → romT s.cfg 60#6 = some top → v.cvCode < top →
    ∃ (t : State) (n : Note), runCycles 2 s = .next t ∧ n = (quantize s.cfg v.cvCode).note ∧
      romP s.cfg (periodAddr false n) = some t.periodReg ∧ t.dutyEn = true ∧ t.counter = 0 ∧
      t.state = .sounding ∧ t.octaveQ = v.octSel ∧ t.errFlag = false

/-- R140, which the spec marks as its own inference: a gate pulse seen at one edge is a RISE and then a FALL: one cycle
of SOUNDING, with the output high if the sample was valid, and then silence with the error cleared and the period kept.
-/
def Obligations.OneCyclePulseSoundsOneCycle : Prop :=
  ∀ (s : State) (v w : Inputs) (rest : List Pins) (top : Nat), s.wasReset = true → s.gatePrev = false →
    s.script = pinsOf v :: pinsOf w :: rest → v.fits s.cfg.val.sampleW = true → w.fits s.cfg.val.sampleW = true →
    v.rst = false → v.gate = true → w.rst = false →
    w.gate = false → romT s.cfg 60#6 = some top →
    ∃ t u, step s = .next t ∧ step t = .next u ∧ t.state = .sounding ∧
      (v.cvCode < top → oscOut t = true) ∧
      u.state = .silent ∧ oscOut u = false ∧ u.errFlag = false ∧ u.periodReg = t.periodReg

/-! ### Encodings -/

/-- R58: the operation word `{in.rst, gate_prev, in.gate}`, its eight values, each with its one event, and the two rules
of a RISE, split by the sample; every cycle's operation has the event of its word. -/
def Obligations.OperationWordSelectsEvent : Prop :=
  (∀ r p g : Bool, (opWord r p g).toNat = 4 * r.toNat + 2 * p.toNat + g.toNat) ∧
    decodeOp 0b000#3 = .idleLow ∧ decodeOp 0b001#3 = .rise ∧ decodeOp 0b010#3 = .fall ∧ decodeOp 0b011#3 = .idleHigh ∧
    (∀ op : OpWord, 0b100#3 ≤ op → decodeOp op = .reset) ∧
    ∀ (top : Nat) (gatePrev : Bool) (v : Inputs),
      (decode top gatePrev v).event = decodeOp (opWord v.rst gatePrev v.gate) ∧
        (decodeOp (opWord v.rst gatePrev v.gate) = .rise →
          (top ≤ v.cvCode → decode top gatePrev v = .riseOor v.octSel v.cvCode) ∧
            (v.cvCode < top → decode top gatePrev v = .riseValid v.octSel v.cvCode))

/-- R67: the places of the four inputs in the vector, for every `SAMPLE_W` and with the default one, and the rule's two
examples; a vector is its inputs, whose `rst` and `gate` the operation word takes. -/
def Obligations.InputVectorLayout : Prop :=
  (∀ (w : Nat) (v : Inputs), v.fits w = true →
    (inputVector w v).toNat =
        v.rst.toNat * 2 ^ (w + 2) + v.gate.toNat * 2 ^ (w + 1) + v.octSel.toNat * 2 ^ w + v.cvCode ∧
      vectorInputs (inputVector w v) = v) ∧
    (∀ (w : Nat) (x : InputVector w), (vectorInputs x).fits w = true ∧ inputVector w (vectorInputs x) = x) ∧
    (∀ x : InputVector 16, (vectorInputs x).rst = x.getLsbD 18 ∧ (vectorInputs x).gate = x.getLsbD 17 ∧
      (vectorInputs x).octSel = x.getLsbD 16 ∧ (vectorInputs x).cvCode = (x.extractLsb' 0 16).toNat) ∧
    inputVector 16 ⟨false, true, false, 12908⟩ = 0x2326C#19 ∧ inputVector 16 ⟨true, false, false, 0⟩ = 0x40000#19

/-- Words of the programs of 95_test_vectors.md §4, with the `gate_prev` they meet there, decode to the operations that the
state column shows. -/
def Obligations.SpecWordsDecode : Prop :=
  CycleWord.decode (w := 16) 63629 ⟨true, 0x40000#19⟩ = .reset ∧
    CycleWord.decode (w := 16) 63629 ⟨false, 0x10000#19⟩ = .idleLow true ∧
    CycleWord.decode (w := 16) 63629 ⟨false, 0x2326C#19⟩ = .riseValid false 12908 ∧
    CycleWord.decode (w := 16) 63629 ⟨true, 0x2326C#19⟩ = .idleHigh false ∧
    CycleWord.decode (w := 16) 63629 ⟨true, 0x0326C#19⟩ = .fall false ∧
    CycleWord.decode (w := 16) 63629 ⟨false, 0x2F88D#19⟩ = .riseOor false 63629 ∧
    CycleWord.decode (w := 16) 63629 ⟨false, 0x33520#19⟩ = .riseValid true 13600

/-- Decode and encode agree, for every width, operation and operand (R58, R67; an ignored input is recorded as 0, log
15). -/
def Obligations.DecodeEncodeRoundTrip : Prop :=
  ∀ (w top : Nat) (i : Instr), i.wellFormed w top = true → (encode w i).decode top = i

/-- The other way (R58, R67): the decoded operation is well formed, its word has the cycle's operation bits and `oct_sel`
where they matter, and a RISE gives back its whole word. -/
def Obligations.EncodeDecodeKeepsReadBits : Prop :=
  ∀ (w top : Nat) (x : CycleWord w),
    (x.decode top).wellFormed w top = true ∧
      (vectorInputs (encode w (x.decode top)).vector).rst = (vectorInputs x.vector).rst ∧
      ((vectorInputs x.vector).rst = false →
        (encode w (x.decode top)).gatePrev = x.gatePrev ∧
        (vectorInputs (encode w (x.decode top)).vector).gate = (vectorInputs x.vector).gate ∧
        (vectorInputs (encode w (x.decode top)).vector).octSel = (vectorInputs x.vector).octSel ∧
        (x.gatePrev = false → (vectorInputs x.vector).gate = true → encode w (x.decode top) = x))

/-- How a table word is presented (logs 13, 14): the very next step after `withFetchWord` runs the operation that
`decodeTableWord` reads from the word, on the registers as they were but for the `gate_prev` bit of the word. -/
def Obligations.TableWordRunsNext : Prop :=
  ∀ (s : State) (nbits w : Nat) (i : Instr), s.cfg.val.isDefault = true → s.cfg.val.sampleW = 16 →
    s.cfg.val.vref.value = 3.3 → decodeTableWord nbits w = some i →
    step (s.withFetchWord nbits w) =
      exec i { s with script := [], gatePrev := w.testBit 1, wasReset := true }

/-! ### Outputs and stimulus -/

/-- R129, R99: the five outputs as functions of the registers. -/
def Obligations.OutputsMirrorRegisters : Prop :=
  ∀ s : State,
    ((outputs s).gateLed = true ↔ s.state = .sounding) ∧ (outputs s).errLed = s.errFlag ∧
      (outputs s).oct1Led = !s.octaveQ ∧ (outputs s).oct2Led = s.octaveQ ∧
      (outputs s).oscOut = (s.dutyEn && decide (s.counter < s.periodReg >>> 1))

/-- R66, and of R65 the three statement forms: what each expands to after a statement that ended with the inputs `v`,
that `WAIT` may not stand first, and that a `NOTE_ON` after a cycle with `g = 1` is an IDLE_HIGH cycle. That a code of
more than `SAMPLE_W` bits expands to nothing is the model's deduction (log 17): R65 gives the range of a code, and calls
only a `WAIT` in the first place an error. -/
def Obligations.StatementsExpandToCycles : Prop :=
  ∀ (w : Nat) (prev : Option Inputs) (v : Inputs) (g o : Bool) (cv n : Nat), v.fits w = true →
    Stmt.cycles w prev .rst = some [⟨true, false, false, 0⟩] ∧
      (cv ≤ 2 ^ w - 1 → Stmt.cycles w prev (.cyc g o cv) = some [⟨false, g, o, cv⟩]) ∧
      (2 ^ w ≤ cv → Stmt.cycles w prev (.cyc g o cv) = none) ∧
      Stmt.cycles w prev (.noteOn cv o) = Stmt.cycles w prev (.cyc true o cv) ∧
      Stmt.cycles w (some v) .noteOff = Stmt.cycles w (some v) (.cyc false v.octSel v.cvCode) ∧
      Stmt.cycles w (some v) (.oct o) = Stmt.cycles w (some v) (.cyc v.gate o v.cvCode) ∧
      Stmt.cycles w prev (.hold n) = Stmt.cycles w prev (.wait n) ∧
      Stmt.cycles w none (.wait n) = none ∧
      (∀ (top : Nat) (u : Inputs), Stmt.cycles w prev (.noteOn cv o) = some [u] → decode top true u = .idleHigh o) ∧
      (1 ≤ n → ∃ vs, Stmt.cycles w (some v) (.wait n) = some vs ∧ vs.length = n ∧
        ∀ u ∈ vs, u = ⟨false, v.gate, v.octSel, v.cvCode⟩)
end

