-- ==== Sys2Proof/Laws/Decode.lean ====
section
/-! SUPPORT. The fields of an input vector and the event of an operation word: a vector and its inputs are the same
thing, for every width, and the event reads `rst`, then the two gate bits. -/

namespace Sys2Proof

/-- Which input each bit of a vector is (R67). -/
theorem inputVector_bit (w : Nat) (v : Inputs) (i : Nat) :
    (inputVector w v).getLsbD i =
      if i < w then v.cvCode.testBit i
      else if i = w then v.octSel
      else if i = w + 1 then v.gate
      else if i = w + 2 then v.rst else false := by
  rw [inputVector, BitVec.getLsbD_cast, BitVec.getLsbD_append, BitVec.getLsbD_append, BitVec.getLsbD_append]
  simp only [BitVec.getLsbD_ofBool, BitVec.getLsbD_ofNat]
  by_cases h0 : i < w
  · simp [h0, show i < 1 + w by omega, show i < 1 + (1 + w) by omega]
  · by_cases h1 : i = w
    · subst h1; simp [show i < 1 + i by omega, show i < 1 + (1 + i) by omega]
    · by_cases h2 : i = w + 1
      · subst h2; simp [show ¬ w + 1 < 1 + w by omega, show w + 1 < 1 + (1 + w) by omega, show w + 1 - (1 + w) = 0 by omega]
      · have h3 : ¬ i < 1 + w := by omega
        have h4 : ¬ i < 1 + (1 + w) := by omega
        have h5 : (i - (1 + (1 + w)) = 0) = (i = w + 2) := by simp only [eq_iff_iff]; omega
        simp only [h0, h1, h2, h3, h4, h5, if_false]
        by_cases h6 : i = w + 2 <;> simp [h6]

/-! The one-bit inputs of a vector are its bits, whatever the code is. -/

@[simp] theorem vectorInputs_rst (w : Nat) (v : Inputs) : (vectorInputs (inputVector w v)).rst = v.rst := by
  rw [vectorInputs]; simp only; rw [inputVector_bit]; simp

@[simp] theorem vectorInputs_gate (w : Nat) (v : Inputs) : (vectorInputs (inputVector w v)).gate = v.gate := by
  rw [vectorInputs]; simp only; rw [inputVector_bit]; simp

@[simp] theorem vectorInputs_octSel (w : Nat) (v : Inputs) : (vectorInputs (inputVector w v)).octSel = v.octSel := by
  rw [vectorInputs]; simp only; rw [inputVector_bit]; simp

/-- The inputs of the vector of inputs, if the code fits the width. -/
theorem vectorInputs_inputVector {w : Nat} {v : Inputs} (h : v.fits w = true) : vectorInputs (inputVector w v) = v := by
  have hc : ((inputVector w v).extractLsb' 0 w).toNat = v.cvCode := by
    apply Nat.eq_of_testBit_eq
    intro i
    rw [BitVec.testBit_toNat, BitVec.getLsbD_extractLsb', Nat.zero_add, inputVector_bit]
    have hlt : v.cvCode < 2 ^ w := by simpa [Inputs.fits] using h
    by_cases hi : i < w
    · simp [hi]
    · have : v.cvCode < 2 ^ i := Nat.lt_of_lt_of_le hlt (Nat.pow_le_pow_right (by omega) (by omega))
      simp [hi, Nat.testBit_lt_two_pow this]
  rw [vectorInputs, hc, inputVector_bit, inputVector_bit, inputVector_bit]
  simp

/-- The code of a vector fits its width. -/
@[simp] theorem vectorInputs_fits {w : Nat} (x : InputVector w) : (vectorInputs x).fits w = true := by
  exact decide_eq_true (x.extractLsb' 0 w).isLt

/-- A vector is made of its inputs (R67). -/
@[simp] theorem inputVector_vectorInputs {w : Nat} (x : InputVector w) : inputVector w (vectorInputs x) = x := by
  apply BitVec.eq_of_getLsbD_eq
  intro i hi
  rw [inputVector_bit]
  by_cases h : i < w
  · rw [if_pos h, vectorInputs, BitVec.testBit_toNat, BitVec.getLsbD_extractLsb', Nat.zero_add]
    simp [h]
  · obtain rfl | rfl | rfl : i = w ∨ i = w + 1 ∨ i = w + 2 := by omega
    all_goals simp [vectorInputs]

/-- The event of a cycle from its three bits (R58). -/
@[simp] theorem decodeOp_opWord (r p g : Bool) :
    decodeOp (opWord r p g) =
      if r then .reset else if p then (if g then .idleHigh else .fall) else (if g then .rise else .idleLow) := by
  cases r <;> cases p <;> cases g <;> rfl

end Sys2Proof
end

