-- ==== Sys2Proof/Laws/State.lean ====
section
/-! SUPPORT. What each shared operation leaves in each field of the state: one lemma per field and operation. -/

namespace Sys2Proof.Machine

/-! tick -/

@[simp] theorem tick_state (s : State) : (tick s).state = s.state := rfl
@[simp] theorem tick_gatePrev (s : State) : (tick s).gatePrev = s.gatePrev := rfl
@[simp] theorem tick_octaveQ (s : State) : (tick s).octaveQ = s.octaveQ := rfl
@[simp] theorem tick_errFlag (s : State) : (tick s).errFlag = s.errFlag := rfl
@[simp] theorem tick_dutyEn (s : State) : (tick s).dutyEn = s.dutyEn := rfl
@[simp] theorem tick_periodReg (s : State) : (tick s).periodReg = s.periodReg := rfl
@[simp] theorem tick_counter (s : State) : (tick s).counter = nextCounter s.dutyEn s.periodReg s.counter := rfl
@[simp] theorem tick_wasReset (s : State) : (tick s).wasReset = s.wasReset := rfl
@[simp] theorem tick_script (s : State) : (tick s).script = s.script := rfl
@[simp] theorem tick_cfg (s : State) : (tick s).cfg = s.cfg := rfl

/-! program -/

@[simp] theorem program_state (p : Nat) (s : State) : (program p s).state = s.state := rfl
@[simp] theorem program_gatePrev (p : Nat) (s : State) : (program p s).gatePrev = s.gatePrev := rfl
@[simp] theorem program_octaveQ (p : Nat) (s : State) : (program p s).octaveQ = s.octaveQ := rfl
@[simp] theorem program_errFlag (p : Nat) (s : State) : (program p s).errFlag = s.errFlag := rfl
@[simp] theorem program_dutyEn (p : Nat) (s : State) : (program p s).dutyEn = true := rfl
@[simp] theorem program_periodReg (p : Nat) (s : State) : (program p s).periodReg = p := rfl
@[simp] theorem program_counter (p : Nat) (s : State) : (program p s).counter = 0 := rfl
@[simp] theorem program_wasReset (p : Nat) (s : State) : (program p s).wasReset = s.wasReset := rfl
@[simp] theorem program_script (p : Nat) (s : State) : (program p s).script = s.script := rfl
@[simp] theorem program_cfg (p : Nat) (s : State) : (program p s).cfg = s.cfg := rfl

/-! silence -/

@[simp] theorem silence_state (s : State) : (silence s).state = s.state := rfl
@[simp] theorem silence_gatePrev (s : State) : (silence s).gatePrev = s.gatePrev := rfl
@[simp] theorem silence_octaveQ (s : State) : (silence s).octaveQ = s.octaveQ := rfl
@[simp] theorem silence_errFlag (s : State) : (silence s).errFlag = s.errFlag := rfl
@[simp] theorem silence_dutyEn (s : State) : (silence s).dutyEn = false := rfl
@[simp] theorem silence_periodReg (s : State) : (silence s).periodReg = s.periodReg := rfl
@[simp] theorem silence_counter (s : State) : (silence s).counter = 0 := rfl
@[simp] theorem silence_wasReset (s : State) : (silence s).wasReset = s.wasReset := rfl
@[simp] theorem silence_script (s : State) : (silence s).script = s.script := rfl
@[simp] theorem silence_cfg (s : State) : (silence s).cfg = s.cfg := rfl

/-! samplePorts -/

@[simp] theorem samplePorts_state (g o : Bool) (s : State) : (samplePorts g o s).state = s.state := rfl
@[simp] theorem samplePorts_gatePrev (g o : Bool) (s : State) : (samplePorts g o s).gatePrev = g := rfl
@[simp] theorem samplePorts_octaveQ (g o : Bool) (s : State) : (samplePorts g o s).octaveQ = o := rfl
@[simp] theorem samplePorts_errFlag (g o : Bool) (s : State) : (samplePorts g o s).errFlag = s.errFlag := rfl
@[simp] theorem samplePorts_dutyEn (g o : Bool) (s : State) : (samplePorts g o s).dutyEn = s.dutyEn := rfl
@[simp] theorem samplePorts_periodReg (g o : Bool) (s : State) : (samplePorts g o s).periodReg = s.periodReg := rfl
@[simp] theorem samplePorts_counter (g o : Bool) (s : State) : (samplePorts g o s).counter = s.counter := rfl
@[simp] theorem samplePorts_wasReset (g o : Bool) (s : State) : (samplePorts g o s).wasReset = s.wasReset := rfl
@[simp] theorem samplePorts_script (g o : Bool) (s : State) : (samplePorts g o s).script = s.script := rfl
@[simp] theorem samplePorts_cfg (g o : Bool) (s : State) : (samplePorts g o s).cfg = s.cfg := rfl

/-! enterSounding -/

@[simp] theorem enterSounding_state (s : State) : (enterSounding s).state = .sounding := rfl
@[simp] theorem enterSounding_gatePrev (s : State) : (enterSounding s).gatePrev = s.gatePrev := rfl
@[simp] theorem enterSounding_octaveQ (s : State) : (enterSounding s).octaveQ = s.octaveQ := rfl
@[simp] theorem enterSounding_errFlag (s : State) : (enterSounding s).errFlag = s.errFlag := rfl
@[simp] theorem enterSounding_dutyEn (s : State) : (enterSounding s).dutyEn = s.dutyEn := rfl
@[simp] theorem enterSounding_periodReg (s : State) : (enterSounding s).periodReg = s.periodReg := rfl
@[simp] theorem enterSounding_counter (s : State) : (enterSounding s).counter = s.counter := rfl
@[simp] theorem enterSounding_wasReset (s : State) : (enterSounding s).wasReset = s.wasReset := rfl
@[simp] theorem enterSounding_script (s : State) : (enterSounding s).script = s.script := rfl
@[simp] theorem enterSounding_cfg (s : State) : (enterSounding s).cfg = s.cfg := rfl

/-! enterSilent -/

@[simp] theorem enterSilent_state (s : State) : (enterSilent s).state = .silent := rfl
@[simp] theorem enterSilent_gatePrev (s : State) : (enterSilent s).gatePrev = s.gatePrev := rfl
@[simp] theorem enterSilent_octaveQ (s : State) : (enterSilent s).octaveQ = s.octaveQ := rfl
@[simp] theorem enterSilent_errFlag (s : State) : (enterSilent s).errFlag = s.errFlag := rfl
@[simp] theorem enterSilent_dutyEn (s : State) : (enterSilent s).dutyEn = s.dutyEn := rfl
@[simp] theorem enterSilent_periodReg (s : State) : (enterSilent s).periodReg = s.periodReg := rfl
@[simp] theorem enterSilent_counter (s : State) : (enterSilent s).counter = s.counter := rfl
@[simp] theorem enterSilent_wasReset (s : State) : (enterSilent s).wasReset = s.wasReset := rfl
@[simp] theorem enterSilent_script (s : State) : (enterSilent s).script = s.script := rfl
@[simp] theorem enterSilent_cfg (s : State) : (enterSilent s).cfg = s.cfg := rfl

/-! raiseVoltageOutOfRange -/

@[simp] theorem raiseVoltageOutOfRange_state (s : State) : (raiseVoltageOutOfRange s).state = s.state := rfl
@[simp] theorem raiseVoltageOutOfRange_gatePrev (s : State) : (raiseVoltageOutOfRange s).gatePrev = s.gatePrev := rfl
@[simp] theorem raiseVoltageOutOfRange_octaveQ (s : State) : (raiseVoltageOutOfRange s).octaveQ = s.octaveQ := rfl
@[simp] theorem raiseVoltageOutOfRange_errFlag (s : State) : (raiseVoltageOutOfRange s).errFlag = true := rfl
@[simp] theorem raiseVoltageOutOfRange_dutyEn (s : State) : (raiseVoltageOutOfRange s).dutyEn = s.dutyEn := rfl
@[simp] theorem raiseVoltageOutOfRange_periodReg (s : State) : (raiseVoltageOutOfRange s).periodReg = s.periodReg := rfl
@[simp] theorem raiseVoltageOutOfRange_counter (s : State) : (raiseVoltageOutOfRange s).counter = s.counter := rfl
@[simp] theorem raiseVoltageOutOfRange_wasReset (s : State) : (raiseVoltageOutOfRange s).wasReset = s.wasReset := rfl
@[simp] theorem raiseVoltageOutOfRange_script (s : State) : (raiseVoltageOutOfRange s).script = s.script := rfl
@[simp] theorem raiseVoltageOutOfRange_cfg (s : State) : (raiseVoltageOutOfRange s).cfg = s.cfg := rfl

/-! clearError -/

@[simp] theorem clearError_state (s : State) : (clearError s).state = s.state := rfl
@[simp] theorem clearError_gatePrev (s : State) : (clearError s).gatePrev = s.gatePrev := rfl
@[simp] theorem clearError_octaveQ (s : State) : (clearError s).octaveQ = s.octaveQ := rfl
@[simp] theorem clearError_errFlag (s : State) : (clearError s).errFlag = false := rfl
@[simp] theorem clearError_dutyEn (s : State) : (clearError s).dutyEn = s.dutyEn := rfl
@[simp] theorem clearError_periodReg (s : State) : (clearError s).periodReg = s.periodReg := rfl
@[simp] theorem clearError_counter (s : State) : (clearError s).counter = s.counter := rfl
@[simp] theorem clearError_wasReset (s : State) : (clearError s).wasReset = s.wasReset := rfl
@[simp] theorem clearError_script (s : State) : (clearError s).script = s.script := rfl
@[simp] theorem clearError_cfg (s : State) : (clearError s).cfg = s.cfg := rfl

/-! resetRegisters -/

@[simp] theorem resetRegisters_state (s : State) : (resetRegisters s).state = .silent := rfl
@[simp] theorem resetRegisters_gatePrev (s : State) : (resetRegisters s).gatePrev = false := rfl
@[simp] theorem resetRegisters_octaveQ (s : State) : (resetRegisters s).octaveQ = false := rfl
@[simp] theorem resetRegisters_errFlag (s : State) : (resetRegisters s).errFlag = false := rfl
@[simp] theorem resetRegisters_dutyEn (s : State) : (resetRegisters s).dutyEn = false := rfl
@[simp] theorem resetRegisters_periodReg (s : State) : (resetRegisters s).periodReg = 0 := rfl
@[simp] theorem resetRegisters_counter (s : State) : (resetRegisters s).counter = 0 := rfl
@[simp] theorem resetRegisters_wasReset (s : State) : (resetRegisters s).wasReset = true := rfl
@[simp] theorem resetRegisters_script (s : State) : (resetRegisters s).script = s.script := rfl
@[simp] theorem resetRegisters_cfg (s : State) : (resetRegisters s).cfg = s.cfg := rfl

/-! presentTableWord -/

@[simp] theorem presentTableWord_state (s : State) (w : Nat) : (presentTableWord s w).state = s.state := rfl
@[simp] theorem presentTableWord_gatePrev (s : State) (w : Nat) : (presentTableWord s w).gatePrev = tableGatePrev w := rfl
@[simp] theorem presentTableWord_octaveQ (s : State) (w : Nat) : (presentTableWord s w).octaveQ = s.octaveQ := rfl
@[simp] theorem presentTableWord_errFlag (s : State) (w : Nat) : (presentTableWord s w).errFlag = s.errFlag := rfl
@[simp] theorem presentTableWord_dutyEn (s : State) (w : Nat) : (presentTableWord s w).dutyEn = s.dutyEn := rfl
@[simp] theorem presentTableWord_periodReg (s : State) (w : Nat) : (presentTableWord s w).periodReg = s.periodReg := rfl
@[simp] theorem presentTableWord_counter (s : State) (w : Nat) : (presentTableWord s w).counter = s.counter := rfl
@[simp] theorem presentTableWord_wasReset (s : State) (w : Nat) : (presentTableWord s w).wasReset = true := rfl
@[simp] theorem presentTableWord_script (s : State) (w : Nat) : (presentTableWord s w).script = [pinsOf (tableInputs w)] := rfl
@[simp] theorem presentTableWord_cfg (s : State) (w : Nat) : (presentTableWord s w).cfg = s.cfg := rfl

/-! The state after reset. -/

@[simp] theorem reset_state : State.reset.state = .silent := rfl
@[simp] theorem reset_gatePrev : State.reset.gatePrev = false := rfl
@[simp] theorem reset_octaveQ : State.reset.octaveQ = false := rfl
@[simp] theorem reset_errFlag : State.reset.errFlag = false := rfl
@[simp] theorem reset_dutyEn : State.reset.dutyEn = false := rfl
@[simp] theorem reset_periodReg : State.reset.periodReg = 0 := rfl
@[simp] theorem reset_counter : State.reset.counter = 0 := rfl
@[simp] theorem reset_wasReset : State.reset.wasReset = true := rfl
@[simp] theorem reset_script : State.reset.script = [] := rfl
@[simp] theorem reset_cfg : State.reset.cfg = builtConfig := rfl

end Sys2Proof.Machine
end

