-- ==== Sys2Proof/Laws/Tables.lean ====
section
/-! SUPPORT. What a legal configuration gives: the order of its thresholds, the range of its periods, and what the ROM reads
answer. -/

namespace Sys2Proof.Machine

/-- In a non-decreasing list an earlier entry stands at or below a later one. -/
theorem nonDecreasing_getElem? {α : Type} {le : α → α → Bool} (hrefl : ∀ a, le a a = true)
    (htrans : ∀ a b c, le a b = true → le b c = true → le a c = true) {l : List α} (h : nonDecreasing le l = true)
    {i j : Nat} {a b : α} (hij : i ≤ j) (ha : l[i]? = some a) (hb : l[j]? = some b) : le a b = true := by
  induction l generalizing i j a b with
  | nil => simp at ha
  | cons x rest ih =>
    have hrest : nonDecreasing le rest = true := by
      cases rest with
      | nil => rfl
      | cons y t => exact (Bool.and_eq_true_iff.1 h).2
    cases j with
    | zero =>
      obtain rfl : i = 0 := by omega
      rw [ha] at hb; cases hb; exact hrefl a
    | succ j =>
      cases i with
      | succ i => exact ih hrest (i := i) (j := j) (by omega) (by simpa using ha) (by simpa using hb)
      | zero =>
        cases rest with
        | nil => simp at hb
        | cons y t =>
          have hxy : le x y = true := (Bool.and_eq_true_iff.1 h).1
          have hyb : le y b = true := ih hrest (i := 0) (j := j) (Nat.zero_le j) (by simp) (by simpa using hb)
          obtain rfl : x = a := by simpa using ha
          exact htrans _ _ _ hxy hyb

/-- The nine checks of a legal configuration, by name. -/
theorem legal_checks (c : LegalConfig) :
    threshCountOk c.val = true ∧ threshOrderOk c.val = true ∧ threshTopOk c.val = true ∧ threshRoundTripOk c.val = true ∧
      freqCountOk c.val = true ∧ freqPositiveOk c.val = true ∧ freqOrderOk c.val = true ∧ freqPinsOk c.val = true ∧
      periodsOk c.val = true := by
  have h := c.property
  simp only [configOk, Bool.and_eq_true] at h
  obtain ⟨⟨⟨⟨⟨⟨⟨⟨h1, h2⟩, h3⟩, h4⟩, h5⟩, h6⟩, h7⟩, h8⟩, h9⟩ := h
  exact ⟨h1, h2, h3, h4, h5, h6, h7, h8, h9⟩

/-- R7(b) between any two indexes. -/
theorem legal_thresh_le (c : LegalConfig) {i j : Nat} {a b : Nat} (hij : i ≤ j) (ha : c.val.thresh[i]? = some a)
    (hb : c.val.thresh[j]? = some b) : a ≤ b := by
  have h := (legal_checks c).2.1
  have := nonDecreasing_getElem? (le := fun a b : Nat => decide (a ≤ b)) (fun a => by simp)
    (fun a b c hab hbc => by simp only [decide_eq_true_eq] at *; exact Nat.le_trans hab hbc) h hij ha hb
  simpa using this

/-- A threshold of index 0..60 is there. -/
theorem legal_thresh_get (c : LegalConfig) {i : Nat} (h : i ≤ 60) : ∃ t, c.val.thresh[i]? = some t := by
  have hl := legal_thresh_length c
  exact ⟨_, List.getElem?_eq_getElem (by omega)⟩

/-- `ROM_T` at an index written as a number. -/
theorem romT_ofNat (c : LegalConfig) {i : Nat} (h : i < 64) : romT c (BitVec.ofNat 6 i) = c.val.thresh[i]? := by
  rw [romT, BitVec.toNat_ofNat, Nat.mod_eq_of_lt h]

theorem romT_top (c : LegalConfig) : romT c 60#6 = some (topThreshold c) := by
  simp [topThreshold]

theorem thresh_top (c : LegalConfig) : c.val.thresh[60]? = some (topThreshold c) := romT_top c

/-- `ROM_P` at the address of a note is the period of that note in that bank (R44). -/
theorem romP_periodAddr (c : LegalConfig) (b : Bool) (n : Note) :
    romP c (periodAddr b n) = (periodRom c.val b)[n.val]? := by
  rw [romP, periodAddr_bank, periodAddr_note]

/-- LOOKUP answers what the ROM holds at the note's address (R85). -/
theorem romP_lookup (c : LegalConfig) (b : Bool) (n : Note) : romP c (periodAddr b n) = some (lookup c b n) := by
  simp [lookup]

/-- The mark, the width and the reference voltage that R7(c) and R7(d) bind, in exact arithmetic (log 16). -/
theorem hasDefaultCodes_iff (c : Config) :
    hasDefaultCodes c = true ↔ c.isDefault = true ∧ c.sampleW = 16 ∧ c.vref.value = 3.3 := by
  have e : (decide (0 < c.vref.den) && c.vref.same Config.defaultVref) = true ↔ c.vref.value = 3.3 := by
    rw [Bool.and_eq_true, decide_eq_true_iff, Ratio.same, decide_eq_true_iff, Ratio.value,
      show (3.3 : ℚ) = 33 / 10 by norm_num, show Config.defaultVref = ⟨33, 10⟩ from rfl]
    rcases Nat.eq_zero_or_pos c.vref.den with h | h
    · simp only [h, Nat.lt_irrefl, false_and, Nat.cast_zero, div_zero, false_iff]; norm_num
    · have hd : (c.vref.den : ℚ) ≠ 0 := by exact_mod_cast h.ne'
      rw [div_eq_div_iff hd (by norm_num)]
      exact ⟨fun h' => by exact_mod_cast h'.2, fun h' => ⟨h, by exact_mod_cast h'⟩⟩
  simp only [hasDefaultCodes, Bool.and_assoc]
  rw [Bool.and_eq_true, Bool.and_eq_true, e, beq_iff_eq]
  exact Iff.rfl

/-- A threshold is a code of `SAMPLE_W` bits (R7(a), R41). -/
theorem legal_thresh_lt (c : LegalConfig) {i t : Nat} (h : c.val.thresh[i]? = some t) : t < 2 ^ c.val.sampleW := by
  have hc := (legal_checks c).1
  simp only [threshCountOk, Bool.and_eq_true, List.all_eq_true, decide_eq_true_eq] at hc
  exact hc.2 t (List.mem_of_getElem? h)

/-- A frequency of a legal configuration is positive (R8(a)). -/
theorem legal_freq_positive (c : LegalConfig) (b : Bool) {f : Ratio} (h : f ∈ freqBank c.val b) : 0 < f.num ∧ 0 < f.den := by
  have hp := (legal_checks c).2.2.2.2.2.1
  simp only [freqPositiveOk, Bool.and_eq_true, List.all_eq_true] at hp
  rw [← Ratio.positive_iff]
  cases b
  · exact hp.1 f h
  · exact hp.2 f h

/-- The period of a frequency of a legal configuration meets R90. -/
theorem legal_period_range (c : LegalConfig) (b : Bool) {f : Ratio} (h : f ∈ freqBank c.val b) :
    2 ≤ periodOf c.val.fClk f ∧ periodOf c.val.fClk f ≤ 2 ^ c.val.periodW - 1 := by
  have hp := (legal_checks c).2.2.2.2.2.2.2.2
  simp only [periodsOk, Bool.and_eq_true, List.all_eq_true] at hp
  rw [← periodInRange_iff]
  cases b
  · exact hp.1 f h
  · exact hp.2 f h

/-- Every word of the period ROM meets R90. -/
theorem periodRom_range (c : LegalConfig) (b : Bool) {n p : Nat} (h : (periodRom c.val b)[n]? = some p) :
    2 ≤ p ∧ p ≤ 2 ^ c.val.periodW - 1 := by
  simp only [periodRom, List.getElem?_map, Option.map_eq_some_iff] at h
  obtain ⟨f, hf, rfl⟩ := h
  exact legal_period_range c b (List.mem_of_getElem? hf)

theorem lookup_range (c : LegalConfig) (b : Bool) (n : Note) :
    2 ≤ lookup c b n ∧ lookup c b n ≤ 2 ^ c.val.periodW - 1 := by
  have h := romP_lookup c b n
  rw [romP_periodAddr] at h
  exact periodRom_range c b h

end Sys2Proof.Machine
end

