-- ==== Sys2Proof/Laws/Ops.lean ====
section
/-! SUPPORT. What TICK, the search and QUANTIZE answer: each said once. -/

namespace Sys2Proof.Machine

/-- A silent divider's counter goes to 0. -/
@[simp] theorem nextCounter_silent (p k : Nat) : nextCounter false p k = 0 := rfl

/-- A running divider either ends its period or moves one cycle on (R96). -/
theorem nextCounter_running (p k : Nat) :
    (p ≤ k + 1 ∧ nextCounter true p k = 0) ∨ (k + 1 < p ∧ nextCounter true p k = k + 1) := by
  unfold nextCounter
  rw [if_neg (by decide)]
  by_cases h : p ≤ k + 1
  · exact .inl ⟨h, if_pos h⟩
  · exact .inr ⟨by omega, if_neg h⟩

/-- The phase stays inside a period of at least one cycle. -/
theorem nextCounter_lt (p k : Nat) (hp : 0 < p) : nextCounter true p k < p := by
  rcases nextCounter_running p k with ⟨-, h⟩ | ⟨h1, h2⟩ <;> omega

/-- What TICK stores is 0 or stands below the period, so it is cut nowhere (R96(a)). -/
theorem nextCounter_zero_or_lt (d : Bool) (p k : Nat) : nextCounter d p k = 0 ∨ nextCounter d p k < p := by
  cases d
  · exact .inl rfl
  · rcases nextCounter_running p k with ⟨-, h⟩ | ⟨h1, h2⟩ <;> omega

/-- Everything the ascending search says of its answer (R74): every threshold before it stands at or below the sample, and
the one at it, if there is one, above. -/
theorem firstAbove_spec (s : Nat) (l : List Nat) :
    (∀ j t, j < firstAbove s l → l[j]? = some t → t ≤ s) ∧ (∀ t, l[firstAbove s l]? = some t → s < t) := by
  induction l with
  | nil => simp [firstAbove]
  | cons x rest ih =>
    unfold firstAbove
    split
    · rename_i h
      exact ⟨fun j t hj => absurd hj (by omega), fun t ht => by simpa using (by simpa using ht : x = t) ▸ h⟩
    · rename_i h
      refine ⟨fun j t hj ht => ?_, fun t ht => ih.2 t (by simpa using ht)⟩
      cases j with
      | zero =>
        obtain rfl : x = t := by simpa using ht
        exact Nat.not_lt.1 h
      | succ j => exact ih.1 j t (by omega) (by simpa using ht)

/-- QUANTIZE is out of range exactly at or above `THRESH[60]` (R77). -/
theorem quantize_oor (c : LegalConfig) (s : Nat) : (quantize c s).oor = decide (topThreshold c ≤ s) := by
  unfold quantize
  split <;> simp_all

theorem quantize_of_le {c : LegalConfig} {s : Nat} (h : topThreshold c ≤ s) : quantize c s = ⟨true, 0⟩ := if_pos h

theorem quantize_of_lt {c : LegalConfig} {s : Nat} (h : s < topThreshold c) :
    quantize c s = ⟨false, floorNote c s⟩ := if_neg (Nat.not_le.2 h)

/-- In range, the search stops at an index of the table. -/
theorem firstAbove_le_60 {c : LegalConfig} {s : Nat} (h : s < topThreshold c) : firstAbove s c.val.thresh ≤ 60 := by
  by_contra hgt
  have hle := (firstAbove_spec s c.val.thresh).1 60 _ (by omega) (thresh_top c)
  exact absurd h (Nat.not_lt.2 hle)

/-- A valid note is at most 59 (R76). -/
theorem floorNote_le_59 {c : LegalConfig} {s : Nat} (h : s < topThreshold c) : (floorNote c s).val ≤ 59 := by
  have := firstAbove_le_60 h
  simp only [floorNote]; omega

/-- What a valid note says of the sample (R74): its own threshold stands at or below the sample, unless the note is 0, and
the next one above. -/
theorem floorNote_spec (c : LegalConfig) (s : Nat) :
    (∀ t, 0 < (floorNote c s).val → c.val.thresh[(floorNote c s).val]? = some t → t ≤ s) ∧
      (∀ t, c.val.thresh[(floorNote c s).val + 1]? = some t → s < t) := by
  have hf := firstAbove_spec s c.val.thresh
  have hv : (floorNote c s).val = firstAbove s c.val.thresh - 1 := rfl
  refine ⟨fun t hpos ht => hf.1 _ t (by omega) ht, fun t ht => ?_⟩
  by_cases h0 : firstAbove s c.val.thresh = 0
  · obtain ⟨t0, ht0⟩ := legal_thresh_get c (Nat.zero_le 60)
    have h1 : s < t0 := hf.2 t0 (by rw [h0]; exact ht0)
    exact Nat.lt_of_lt_of_le h1 (legal_thresh_le c (Nat.zero_le _) ht0 ht)
  · rw [hv, Nat.sub_add_cancel (by omega)] at ht
    exact hf.2 t ht

end Sys2Proof.Machine
end

