-- ==== Sys2Proof/Laws/PerInstr.lean ====
section
/-! SUPPORT. Statements made operation by operation: the word of each operation selects the operation's event (R58). -/

namespace Sys2Proof.Laws.EncodingSelectsEvent

/-- For every `SAMPLE_W`, the operation word of the encoding decodes to the event of the operation. -/
def Statement (i : Instr) : Prop :=
  ∀ w : Nat,
    decodeOp (opWord (vectorInputs (encode w i).vector).rst (encode w i).gatePrev (vectorInputs (encode w i).vector).gate) =
      i.event

theorem reset : Statement .reset := by simp [Statement, encode, Instr.event]

theorem idleLow (octSel : Bool) : Statement (.idleLow octSel) := by simp [Statement, encode, Instr.event]

theorem riseValid (octSel : Bool) (cvCode : Nat) : Statement (.riseValid octSel cvCode) := by
  simp [Statement, encode, Instr.event]

theorem riseOor (octSel : Bool) (cvCode : Nat) : Statement (.riseOor octSel cvCode) := by
  simp [Statement, encode, Instr.event]

theorem fall (octSel : Bool) : Statement (.fall octSel) := by simp [Statement, encode, Instr.event]

theorem idleHigh (octSel : Bool) : Statement (.idleHigh octSel) := by simp [Statement, encode, Instr.event]

end Sys2Proof.Laws.EncodingSelectsEvent
end

