-- ==== Sys2Proof/Laws/Step.lean ====
section
/-! SUPPORT. What one step can do: the inversion of `step`, the meaning of each operation as one equation, and what a
sampled pin vector is. -/

namespace Sys2Proof.Machine

@[simp] theorem bit?_ofBit (b : Bool) : (Level.ofBit b).bit? = some b := by cases b <;> rfl

/-- The pins of a cycle's inputs are sampled as those inputs. -/
@[simp] theorem sample_pinsOf (v : Inputs) : (pinsOf v).sample = some v := by
  simp only [Pins.sample, pinsOf, bit?_ofBit]

/-- The operation a cycle selects, from the bits of its vector (R58). -/
theorem decode_eq (top : Nat) (gatePrev : Bool) (v : Inputs) :
    decode top gatePrev v =
      if v.rst then .reset
      else if gatePrev then (if v.gate then .idleHigh v.octSel else .fall v.octSel)
      else if v.gate then
        (if v.cvCode < top then .riseValid v.octSel v.cvCode
          else .riseOor v.octSel v.cvCode)
      else .idleLow v.octSel := by
  unfold decode
  rw [decodeOp_opWord]
  cases v.rst <;> cases gatePrev <;> cases v.gate <;> rfl

/-- A step that answers a next state sampled binary inputs with a code of the port, was allowed to run, and ran the
operation it selects. -/
theorem step_next {s s' : State} (h : step s = .next s') :
    ∃ pins rest v, s.script = pins :: rest ∧ pins.sample = some v ∧ portFits s v = true ∧ mayRun s v = true ∧
      exec (decodeIn s v) { s with script := rest } = .next s' := by
  unfold step at h
  split at h
  · cases h
  · rename_i pins rest hs
    split at h
    · cases h
    · rename_i v hv
      split at h
      · rename_i hf
        split at h
        · rename_i hm
          exact ⟨pins, rest, v, hs, hv, hf, hm, h⟩
        · cases h
      · cases h

/-- The step at a state whose next cycle is binary, carries a code of the port and may run. -/
theorem step_of_sample {s : State} {pins : Pins} {rest : List Pins} {v : Inputs} (hs : s.script = pins :: rest)
    (hv : pins.sample = some v) (hf : portFits s v = true) (hm : mayRun s v = true) :
    step s = exec (decodeIn s v) { s with script := rest } := by
  simp only [step, hs, hv, hf, hm, if_true]

theorem exec_reset (s : State) : exec .reset s = .next (resetRegisters s) := rfl

theorem exec_idleLow (o : Bool) (s : State) : exec (.idleLow o) s = .next (samplePorts false o (tick s)) := rfl

theorem exec_idleHigh (o : Bool) (s : State) : exec (.idleHigh o) s = .next (samplePorts true o (tick s)) := rfl

theorem exec_fall (o : Bool) (s : State) :
    exec (.fall o) s = .next (samplePorts false o (enterSilent (silence (clearError s)))) := rfl

theorem exec_riseValid (o : Bool) (cv : Nat) (s : State) :
    exec (.riseValid o cv) s =
      if topThreshold s.cfg ≤ cv then .refused .mismatchedRise
      else .next (samplePorts true o (enterSounding (program (lookup s.cfg s.octaveQ (floorNote s.cfg cv)) s))) := by
  show execRiseValid o cv s = _
  unfold execRiseValid
  rw [quantize_oor]
  by_cases h : topThreshold s.cfg ≤ cv
  · simp [h]
  · rw [if_neg (by simpa using h), if_neg h, quantize_of_lt (Nat.not_le.1 h)]

theorem exec_riseOor (o : Bool) (cv : Nat) (s : State) :
    exec (.riseOor o cv) s =
      if topThreshold s.cfg ≤ cv then .next (samplePorts true o (enterSounding (raiseVoltageOutOfRange (tick s))))
      else .refused .mismatchedRise := by
  show execRiseOor o cv s = _
  unfold execRiseOor
  rw [quantize_oor]
  by_cases h : topThreshold s.cfg ≤ cv <;> simp [h]

/-- The state after a cycle that samples `v`, as the shared operations give it. -/
def cycleResult (s : State) (v : Inputs) : State :=
  if v.rst then resetRegisters s
  else if s.gatePrev then
    (if v.gate then samplePorts true v.octSel (tick s)
      else samplePorts false v.octSel (enterSilent (silence (clearError s))))
  else if v.gate then
    (if v.cvCode < topThreshold s.cfg then
        samplePorts true v.octSel
          (enterSounding (program (lookup s.cfg s.octaveQ (floorNote s.cfg v.cvCode)) s))
      else samplePorts true v.octSel (enterSounding (raiseVoltageOutOfRange (tick s))))
  else samplePorts false v.octSel (tick s)

/-- What exec can do with the operation that a state's own cycle selects: it always answers a next state, and which one. -/
theorem exec_decodeIn (s : State) (v : Inputs) (rest : List Pins) :
    exec (decodeIn s v) { s with script := rest } = .next (cycleResult { s with script := rest } v) := by
  unfold decodeIn cycleResult
  rw [decode_eq]
  by_cases hr : v.rst = true
  · simp [hr, exec_reset]
  · by_cases hp : s.gatePrev = true
    · by_cases hg : v.gate = true
      · simp [hr, hp, hg, exec_idleHigh]
      · simp [hr, hp, hg, exec_fall]
    · by_cases hg : v.gate = true
      · by_cases hc : v.cvCode < topThreshold s.cfg
        · simp [hr, hp, hg, hc, exec_riseValid, Nat.not_le.2 hc]
        · simp [hr, hp, hg, hc, exec_riseOor, Nat.not_lt.1 hc]
      · simp [hr, hp, hg, exec_idleLow]

/-- The same step as one next state. -/
theorem step_eq_cycleResult {s : State} {pins : Pins} {rest : List Pins} {v : Inputs}
    (hs : s.script = pins :: rest) (hv : pins.sample = some v) (hf : portFits s v = true) (hm : mayRun s v = true) :
    step s = .next (cycleResult { s with script := rest } v) := by
  rw [step_of_sample hs hv hf hm, exec_decodeIn]

end Sys2Proof.Machine
end

