-- ==== Sys2Proof/Laws/Run.lean ====
section
/-! SUPPORT. Runs of cycles: the run of this machine is the host's run of the core, and the outputs that a run shows are
those of its states. -/

namespace Sys2Proof.Machine

@[simp] theorem runCycles_zero (s : State) : runCycles 0 s = .next s := rfl

/-- A run whose first cycle answers a next state goes on from it. -/
theorem runCycles_succ {s s' : State} (k : Nat) (h : step s = .next s') : runCycles (k + 1) s = runCycles k s' := by
  simp only [runCycles, h]

/-- A run that answers a next state took its first cycle. -/
theorem runCycles_succ_next {s t : State} {k : Nat} (h : runCycles (k + 1) s = .next t) :
    ∃ s', step s = .next s' ∧ runCycles k s' = .next t := by
  cases hs : step s with
  | next s' => exact ⟨s', rfl, by rwa [runCycles_succ k hs] at h⟩
  | fault r => simp [runCycles, hs] at h
  | refused r => simp [runCycles, hs] at h

theorem runCycles_succ_fault {s : State} {r : Fault} (k : Nat) (h : step s = .fault r) :
    runCycles (k + 1) s = .fault r := by simp only [runCycles, h]

theorem runCycles_succ_refused {s : State} {r : Refusal} (k : Nat) (h : step s = .refused r) :
    runCycles (k + 1) s = .refused r := by simp only [runCycles, h]

/-- One cycle of the host's run, for any core. -/
theorem core_run_next (M : Host.Core) (k : Nat) {s s' : M.State} (h : M.step s = .next s') :
    M.run (k + 1) s = M.run k s' := by simp [Host.Core.run, h]

theorem core_run_fault (M : Host.Core) (k : Nat) {s : M.State} {r : M.Fault} (h : M.step s = .fault r) :
    M.run (k + 1) s = .fault r := by simp [Host.Core.run, h]

theorem core_run_refused (M : Host.Core) (k : Nat) {s : M.State} {r : M.Refusal} (h : M.step s = .refused r) :
    M.run (k + 1) s = .refused r := by simp [Host.Core.run, h]

/-- `runCycles` is the host's run. -/
theorem core_run_eq (k : Nat) (s : State) : Host.Core.run Sys2Proof.core k s = runCycles k s := by
  induction k generalizing s with
  | zero => rfl
  | succ k ih =>
    cases hs : step s with
    | next s' => exact (core_run_next Sys2Proof.core k hs).trans ((ih s').trans (runCycles_succ k hs).symm)
    | fault r => exact (core_run_fault Sys2Proof.core k hs).trans (runCycles_succ_fault k hs).symm
    | refused r => exact (core_run_refused Sys2Proof.core k hs).trans (runCycles_succ_refused k hs).symm

/-- A property that holds at the start of a run and that every step keeps holds at its end. -/
theorem runCycles_induction (P : State → Prop) (hstep : ∀ s t, P s → step s = .next t → P t) (k : Nat) {s t : State}
    (hs : P s) (h : runCycles k s = .next t) : P t := by
  induction k generalizing s with
  | zero =>
    obtain rfl : s = t := by simpa using h
    exact hs
  | succ k ih =>
    obtain ⟨s', h1, h2⟩ := runCycles_succ_next h
    exact ih (hstep s s' hs h1) h2

end Sys2Proof.Machine
end

