-- ==== Sys2Proof/Tests/Fixture.lean ====
section
/-! SUPPORT. The test tables TT and FT of 95_test_vectors.md §2 as a configuration (test data, not the hardware's
tables: G1), a variant with equal thresholds (vector Q17 and R82), and small builders of states and cycles. -/

namespace Sys2Proof.Tests

open Sys2Proof.Machine

/-- TT, by the formula the spec gives for it. -/
def ttEntry (i : Nat) : Nat := if i ≤ 7 then 1000 + 1800 * i else 13600 + (i - 7) * 50029 / 53

def tt : List Nat := (List.range 61).map ttEntry

/-- TT with `TT'[3] = TT'[4] = TT'[5] = 6400` (Q17) and `TT'[59] = TT'[60]` (R82(d)). -/
def ttFlat : List Nat :=
  (List.range 61).map (fun i => if i = 4 ∨ i = 5 then 6400 else if i = 59 then 63629 else ttEntry i)

/-- FT bank 0 in hundredths of a hertz. -/
def ft0 : List Nat :=
  [1635, 1732, 1835, 1945, 2060, 2183, 2312, 2450, 2596, 2750, 2914, 3087, 3270, 3465, 3671, 3889, 4120, 4365, 4625, 4900] ++
  [5191, 5500, 5827, 6174, 6541, 6930, 7342, 7778, 8241, 8731, 9250, 9800, 10383, 11000, 11654, 12347, 13081, 13859] ++
  [14683, 15556, 16481, 17461, 18500, 19600, 20765, 22000, 23308, 24694, 26163, 27718, 29366, 31113, 32963, 34923] ++
  [36999, 39200, 41530, 44000, 46616, 49388, 52325]

/-- FT bank 1 in hundredths of a hertz. -/
def ft1 : List Nat :=
  [52325, 55437, 58733, 62225, 65926, 69846, 73999, 78399, 83061, 88000, 93233, 98777, 104650, 110873, 117466, 124451] ++
  [131851, 139691, 147998, 156798, 166122, 176000, 186466, 197553, 209300, 221746, 234932, 248902, 263702, 279383] ++
  [295996, 313596, 332244, 352000, 372931, 395107, 418601, 443492, 469864, 497803, 527404, 558765, 591991, 627193] ++
  [664488, 704000, 745862, 790213, 837202, 886984, 939727, 995606, 1054808, 1117530, 1183982, 1254385, 1328975] ++
  [1408000, 1491724, 1580427, 1674404]

def hundredths (l : List Nat) : List Ratio := l.map (fun n => ⟨n, 100⟩)

def fixture : Config := ⟨tt, hundredths ft0, hundredths ft1, ⟨1000000, 1⟩, 16, 16, ⟨33, 10⟩, true⟩

def flatFixture : Config := { fixture with thresh := ttFlat }

/-- Other parameters than the defaults of R6: a clock of 14318181 + 9/11 Hz, codes of 12 bits, periods of 20 bits and a
reference of 5 logic units, with the codes of TT scaled to 12 bits. -/
def otherFixture : Config :=
  { fixture with thresh := tt.map (· / 16), fClk := ⟨157500000, 11⟩, sampleW := 12, periodW := 20, vref := ⟨5, 1⟩ }

theorem fixture_ok : configOk fixture = true := by decide

theorem flatFixture_ok : configOk flatFixture = true := by decide

theorem otherFixture_ok : configOk otherFixture = true := by decide

def fx : LegalConfig := ⟨fixture, fixture_ok⟩

def flat : LegalConfig := ⟨flatFixture, flatFixture_ok⟩

def other : LegalConfig := ⟨otherFixture, otherFixture_ok⟩

/-- A state written as 95_test_vectors.md §3.4 writes it, with the vectors of the cycles to come. -/
def st (x : GateState) (gatePrev octaveQ errFlag dutyEn : Bool) (periodReg counter : Nat) (vs : List Inputs) : State :=
  ⟨x, gatePrev, octaveQ, errFlag, dutyEn, periodReg, counter, true, vs.map pinsOf, fx⟩

/-- One `CYC` statement's inputs. -/
def cyc (g o : Bool) (cv : Nat) : Inputs := ⟨false, g, o, cv⟩

/-- One `RST` statement's inputs. -/
def rstCyc : Inputs := ⟨true, false, false, 0⟩

/-- Whether the step leads to the state given, the configuration apart. -/
def stepsTo (s t : State) : Bool :=
  match step s with
  | .next u =>
    decide ((u.state, u.gatePrev, u.octaveQ, u.errFlag, u.dutyEn) = (t.state, t.gatePrev, t.octaveQ, t.errFlag, t.dutyEn)) &&
      decide ((u.periodReg, u.counter, u.wasReset, u.script) = (t.periodReg, t.counter, t.wasReset, t.script))
  | _ => false

/-- Whether the step refuses, and why. -/
def refusesWith (s : State) (r : Refusal) : Bool :=
  match step s with
  | .refused q => decide (q = r)
  | _ => false

end Sys2Proof.Tests
end

