-- ==== Sys2Proof/Tests/Slice0.lean ====
section
/-! SUPPORT. The model's own tests. Expected results are the vectors Q, L, D, G and the words of 95_test_vectors.md,
with the fixture tables of its §2. -/

namespace Sys2Proof.Tests

open Sys2Proof.Machine

/-! ### Well-formedness: a term that each check refuses -/

theorem test_riseValid_top_is_ill_formed : (Instr.riseValid false 63629).wellFormed 16 63629 = false := by decide
theorem test_riseOor_below_top_is_ill_formed : (Instr.riseOor false 63628).wellFormed 16 63629 = false := by decide
theorem test_rise_on_its_side_is_well_formed :
    (Instr.riseValid true 63628).wellFormed 16 63629 = true ∧ (Instr.riseOor true 63629).wellFormed 16 63629 = true := by
  decide

theorem test_config_short_thresholds : threshCountOk { fixture with thresh := tt.take 60 } = false := by decide
theorem test_config_wide_threshold : threshCountOk { fixture with sampleW := 15 } = false := by decide
theorem test_config_unordered_thresholds : threshOrderOk { fixture with thresh := tt.reverse } = false := by decide
theorem test_config_top_not_3204 : threshTopOk { fixture with thresh := tt.take 60 ++ [63630] } = false := by decide
theorem test_config_round_trip_above : threshRoundTripOk { fixture with thresh := tt.drop 1 ++ [63629] } = false := by
  decide
theorem test_config_short_bank : freqCountOk { fixture with freq1 := [] } = false := by decide
theorem test_config_zero_frequency : freqPositiveOk { fixture with freq0 := [⟨0, 1⟩] } = false := by decide
theorem test_config_unordered_frequencies : freqOrderOk { fixture with freq0 := [⟨2, 1⟩, ⟨1, 1⟩] } = false := by decide
theorem test_config_missing_pin : freqPinsOk { fixture with freq1 := hundredths ft0 } = false := by decide
theorem test_config_period_too_long : periodsOk { fixture with freq0 := [⟨15, 1⟩] } = false := by decide
/-- At 16 bits a clock of 14.3 MHz is refused for 16.35 Hz, at 20 bits it is not (R90). -/
theorem test_config_period_width :
    periodsOk { otherFixture with periodW := 16 } = false ∧ periodsOk otherFixture = true := by
  decide

theorem test_riseOor_too_wide_is_ill_formed : (Instr.riseOor false 65536).wellFormed 16 63629 = false := by decide

/-! ### Decoding: words written out from R58 and R67, one or more for each family -/

/-- `RST` is `0b1_0_0_0000000000000000`. -/
theorem test_decode_reset :
    CycleWord.decode (w := 16) 63629 ⟨false, 0b1000000000000000000#19⟩ = .reset := by decide
/-- `rst = 0, gate = 0, oct_sel = 1`, `gate_prev = 0`: op 000. -/
theorem test_decode_idleLow :
    CycleWord.decode (w := 16) 63629 ⟨false, 0b0010000000000000000#19⟩ = .idleLow true := by decide
/-- `CYC g=1 o=0 cv=12908`, `gate_prev = 0`: op 001, the word of R67. -/
theorem test_decode_riseValid :
    CycleWord.decode (w := 16) 63629 ⟨false, 0b0100011001001101100#19⟩ = .riseValid false 12908 := by decide
/-- `CYC g=1 o=0 cv=63629`, `gate_prev = 0`: op 001 with the top code, the word of program P2. -/
theorem test_decode_riseOor :
    CycleWord.decode (w := 16) 63629 ⟨false, 0b0101111100010001101#19⟩ = .riseOor false 63629 := by decide
/-- `CYC g=0 o=0 cv=12908`, `gate_prev = 1`: op 010. -/
theorem test_decode_fall :
    CycleWord.decode (w := 16) 63629 ⟨true, 0b0000011001001101100#19⟩ = .fall false := by decide
/-- `CYC g=1 o=1 cv=0`, `gate_prev = 1`: op 011. -/
theorem test_decode_idleHigh :
    CycleWord.decode (w := 16) 63629 ⟨true, 0b0110000000000000000#19⟩ = .idleHigh true := by decide

/-- The table rows' words: 1xx, 000, 001, 010, 011 (RISE_OOR shares 001, log 13). -/
theorem test_table_words :
    decodeTableWord 8 0b100 = some .reset ∧ decodeTableWord 8 0b111 = some .reset ∧
      decodeTableWord 8 0b000 = some (.idleLow false) ∧ decodeTableWord 8 0b001 = some (.riseValid false 0) ∧
      decodeTableWord 8 0b010 = some (.fall false) ∧ decodeTableWord 8 0b011 = some (.idleHigh false) ∧
      decodeTableWord 24 (63629 * 16 + 1) = some (.riseOor false 63629) ∧ decodeTableWord 24 (2 ^ 20) = none := by
  decide

/-- The first step after reset with a table word presented answers a next state, for each row. -/
theorem test_table_words_run_from_reset :
    ∀ w ∈ [0b100, 0b000, 0b001, 0b010, 0b011, 63629 * 16 + 1],
      (match step (State.reset.withFetchWord 8 w) with
        | .next _ => true
        | _ => false) = true := by
  decide

/-! ### The quantizer: vectors Q1 to Q17 -/

def quantizesTo (c : LegalConfig) (s : Nat) (oor : Bool) (note : Nat) : Bool :=
  (quantize c s).oor == oor && (quantize c s).note.val == note &&
    quantizeBank c s == (oor, note)

theorem test_quantize_Q1_to_Q8 :
    quantizesTo fx 0 false 0 && quantizesTo fx 999 false 0 && quantizesTo fx 1000 false 0 && quantizesTo fx 2799 false 0 &&
      quantizesTo fx 2800 false 1 && quantizesTo fx 11799 false 5 && quantizesTo fx 11800 false 6 &&
      quantizesTo fx 12908 false 6 = true := by decide

theorem test_quantize_Q9_to_Q16 :
    quantizesTo fx 13599 false 6 && quantizesTo fx 13600 false 7 && quantizesTo fx 14543 false 8 &&
      quantizesTo fx 62684 false 58 && quantizesTo fx 62685 false 59 && quantizesTo fx 63628 false 59 &&
      quantizesTo fx 63629 true 0 && quantizesTo fx 65535 true 0 = true := by decide

/-- Q17: `s = 6400` gives note 5, and one below gives note 2. -/
theorem test_quantize_Q17 : quantizesTo flat 6400 false 5 && quantizesTo flat 6399 false 2 = true := by decide

/-! ### The LUT: vectors L1 to L8 -/

theorem test_lookup_vectors :
    romP fx 0x00#7 = some 61162 ∧ romP fx 0x06#7 = some 43253 ∧ romP fx 0x40#7 = some 1911 ∧
      romP fx 0x3C#7 = some 1911 ∧ romP fx 0x3B#7 = some 2025 ∧ romP fx 0x7B#7 = some 63 ∧
      romP fx 0x47#7 = some 1276 ∧ romP fx 0x3D#7 = none ∧ romP fx 0x7F#7 = none := by decide

/-! ### The divider: vectors D1 to D10, as `(period_reg, counter)` and `osc_out` -/

theorem test_tick_vectors :
    nextCounter true 5 0 = 1 ∧ nextCounter true 5 1 = 2 ∧ nextCounter true 5 4 = 0 ∧
      nextCounter true 4 3 = 0 ∧ nextCounter false 43253 0 = 0 ∧ nextCounter true 5 7 = 0 ∧
      nextCounter true 1911 954 = 955 := by decide

theorem test_osc_vectors :
    oscOut (st .sounding true false false true 5 1 []) = true ∧ oscOut (st .sounding true false false true 5 2 []) = false ∧
      oscOut (st .sounding true false false true 1911 954 []) = true ∧
      oscOut (st .sounding true false false true 1911 955 []) = false ∧
      oscOut (st .sounding true false false false 43253 0 []) = false := by decide

/-! ### The cycle step: vectors G1 to G9 -/

theorem test_G1_idleLow :
    stepsTo (st .silent false false false false 0 0 [cyc false false 0]) (st .silent false false false false 0 0 []) = true := by
  decide
theorem test_G2_riseValid :
    stepsTo (st .silent false false false false 0 0 [cyc true false 12908])
      (st .sounding true false false true 43253 0 []) = true := by decide
theorem test_G3_riseOor :
    stepsTo (st .silent false false false false 0 0 [cyc true false 63629])
      (st .sounding true false true false 0 0 []) = true := by decide
theorem test_G4_rise_uses_old_bank :
    stepsTo (st .silent false true false false 0 0 [cyc true false 0])
      (st .sounding true false false true 1911 0 []) = true := by decide
theorem test_G5_fall :
    stepsTo (st .sounding true false false true 43253 77 [cyc false false 0])
      (st .silent false false false false 43253 0 []) = true := by decide
theorem test_G6_fall_clears_error :
    stepsTo (st .sounding true false true false 0 0 [cyc false true 0]) (st .silent false true false false 0 0 []) = true := by
  decide
theorem test_G7_idleHigh_keeps_period :
    stepsTo (st .sounding true false false true 43253 5 [cyc true true 0])
      (st .sounding true true false true 43253 6 []) = true := by decide
theorem test_G8_reset :
    stepsTo (st .sounding true true true true 1911 9 [⟨true, true, false, 65535⟩])
      (st .silent false false false false 0 0 []) = true := by decide
theorem test_G9_reentrant_rise_keeps_error :
    stepsTo (st .silent false false true false 0 0 [cyc true false 12908])
      (st .sounding true false true true 43253 0 []) = true := by decide

/-! ### Other parameters than the defaults -/

/-- Code 806 of 12 bits stands between `11800 / 16 = 737` and `13600 / 16 = 850`, so its note is 6, and
`157500000 / 11 / 23.12 = 619298.52...` rounds to the period below (R74, R89). -/
theorem test_other_parameters_rise :
    (match step { st .silent false false false false 0 0 [cyc true false 806] with cfg := other } with
      | .next t => decide ((t.periodReg, t.counter, t.dutyEn, t.errFlag) = (619299, 0, true, false))
      | _ => false) = true := by decide

/-! ### Refusals of the step -/

/-- R63(c): an X on `gate`. -/
theorem test_nonBinary_gate_refused :
    refusesWith { st .silent false false false false 0 0 [] with script := [⟨.low, .nonBinary, .low, 0⟩] }
      .nonBinaryInput = true := by decide
/-- R34: the first cycle of a run is not RESET. -/
theorem test_run_without_reset_refused :
    refusesWith { st .silent false false false false 0 0 [cyc true false 0] with wasReset := false } .runWithoutReset = true := by
  decide
/-- Log 20: a code of 17 bits at a port of 16. -/
theorem test_wide_code_refused :
    refusesWith (st .silent false false false false 0 0 [cyc false false 65536]) .codeTooWide = true := by decide
/-- Log 8: the script has ended. -/
theorem test_script_end_refused : refusesWith (st .silent false false false false 0 0 []) .scriptEnded = true := by
  decide

/-! ### Stimulus: R65 to R67 -/

/-- Program P1's script has the encodings of its table. -/
theorem test_expand_P1 :
    (expandScript 16 [.rst, .cyc false false 0, .noteOn 12908 false, .wait 3, .noteOff, .wait 1]).map
        (fun vs => vs.map (inputVector 16)) =
      some [0x40000#19, 0x00000#19, 0x2326C#19, 0x2326C#19, 0x2326C#19, 0x2326C#19, 0x0326C#19, 0x0326C#19] := by decide
/-- `OCT 0` of program P3, statement 9. -/
theorem test_expand_oct :
    (expandScript 16 [.cyc true true 0, .wait 2, .oct false]).map (fun vs => vs.map (inputVector 16)) =
    some [0x30000#19, 0x30000#19, 0x30000#19, 0x20000#19] := by decide
theorem test_wait_first_is_error :
    expandScript 16 [.wait 2] = none ∧ expandScript 16 [.rst, .hold 0] = none := by decide
/-- R65: a code is 0..2^SAMPLE_W-1; outside that range, log 17. -/
theorem test_wide_code_is_error :
    expandScript 12 [.cyc true false 4096] = none ∧
      (expandScript 12 [.cyc true false 4095]).isSome = true := by decide

end Sys2Proof.Tests
end

