-- ==== Sys2Proof/Tests/Witness.lean ====
section
/-! SUPPORT. For each statement with hypotheses, a concrete state and operands that meet them together, at boundary values
where a clause has a range. The configuration is the fixture of 95_test_vectors.md §2. -/

namespace Sys2Proof.Tests

open Sys2Proof.Machine

/-! ### The states used below -/

/-- `rst` with every other input set. -/
def rstAll : Inputs := ⟨true, true, true, 65535⟩

/-- Silent, gate low, with the cycles given. -/
def silentSt (vs : List Inputs) : State := st .silent false false false false 0 0 vs

/-- Sounding note 6 of bank 0, phase 5. -/
def soundingSt (vs : List Inputs) : State := st .sounding true false false true 43253 5 vs

/-- After an out-of-range RISE. -/
def errorSt (vs : List Inputs) : State := st .sounding true false true false 0 0 vs

theorem romT_top_fx : romT fx 60#6 = some 63629 := by decide

theorem silentSt_consistent (vs : List Inputs) : (silentSt vs).Consistent := fun _ =>
  ⟨rfl, ⟨fun _ => rfl, fun h => Bool.noConfusion h⟩, fun h => Bool.noConfusion h, .inl rfl⟩

theorem soundingSt_consistent (vs : List Inputs) : (soundingSt vs).Consistent := fun _ =>
  ⟨rfl, ⟨fun h => Bool.noConfusion h, fun _ => ⟨rfl, by show 2 ≤ (43253); decide, by
    show 5 < 43253; decide⟩⟩, fun h => Bool.noConfusion h,
    .inr ⟨false, 6, by decide, by show romP fx (periodAddr false 6) = some (43253); decide⟩⟩

theorem errorSt_consistent (vs : List Inputs) : (errorSt vs).Consistent := fun _ =>
  ⟨rfl, ⟨fun _ => rfl, fun h => Bool.noConfusion h⟩, fun _ => ⟨rfl, rfl⟩, .inl rfl⟩

/-- A state built by `st` presents its first inputs, if their code fits the port. -/
theorem st_presents {x : GateState} {g o e d : Bool} {p k : Nat} {v : Inputs} {vs : List Inputs} (h : v.fits 16 = true) :
    (st x g o e d p k (v :: vs)).Presents v (vs.map pinsOf) :=
  ⟨pinsOf v, rfl, sample_pinsOf v, h, rfl⟩

/-- And which state it steps to. -/
theorem st_steps_to {x : GateState} {g o e d : Bool} {p k : Nat} {v : Inputs} {vs : List Inputs} (h : v.fits 16 = true) :
    step (st x g o e d p k (v :: vs)) = .next (cycleResult (st x g o e d p k vs) v) :=
  step_eq_cycleResult rfl (sample_pinsOf v) h rfl

theorem st_steps {x : GateState} {g o e d : Bool} {p k : Nat} {v : Inputs} {vs : List Inputs} (h : v.fits 16 = true) :
    ∃ t, step (st x g o e d p k (v :: vs)) = .next t := ⟨_, st_steps_to h⟩

/-- The values of the fixture's clock and reference voltage. -/
theorem fx_values : fx.val.fClk.value = 1000000 ∧ fx.val.vref.value = 3.3 ∧ other.val.vref.value = 5 := by
  norm_num [fx, other, fixture, otherFixture, Ratio.value]

/-- A cycle keeps the reset mark and takes one vector. -/
theorem cycleResult_keeps (s : State) (v : Inputs) (h : s.wasReset = true) :
    (cycleResult s v).wasReset = true ∧ (cycleResult s v).script = s.script ∧ (cycleResult s v).cfg = s.cfg := by
  unfold cycleResult
  split
  · exact ⟨rfl, rfl, rfl⟩
  · repeat' split
    all_goals exact ⟨h, rfl, rfl⟩

/-- Two binary cycles run, in a run that had its reset. -/
theorem twoCycles_run {s : State} {v w : Inputs} {rest : List Pins} (hs : s.script = pinsOf v :: pinsOf w :: rest)
    (h : s.wasReset = true) (hv : portFits s v = true) (hw : portFits s w = true) : ∃ t, runCycles 2 s = .next t := by
  have hm : ∀ (u : State) (x : Inputs), u.wasReset = true → mayRun u x = true := fun u x hu => by simp [mayRun, hu]
  have hk := cycleResult_keeps { s with script := pinsOf w :: rest } v h
  have hf : portFits (cycleResult { s with script := pinsOf w :: rest } v) w = true := by rw [portFits, hk.2.2]; exact hw
  rw [runCycles_succ 1 (step_eq_cycleResult hs (sample_pinsOf v) hv (hm _ _ h)),
    runCycles_succ 0 (step_eq_cycleResult hk.2.1 (sample_pinsOf w) hf (hm _ _ hk.1))]
  exact ⟨_, rfl⟩

/-! ### The meaning of each operation -/

theorem witness_ResetWritesEveryRegister : rstCyc.rst = true ∧ rstAll.rst = true := by decide

theorem witness_IdleTicksAndSamplesPorts :
    ((cyc false true 65535).rst = false ∧ (cyc false true 65535).gate = false) ∧
      ((cyc true true 65535).rst = false ∧ (cyc true true 65535).gate = true) ∧
      (silentSt []).dutyEn = false ∧
      ((st .sounding true false false true 5 4 []).dutyEn = true ∧
        (st .sounding true false false true 5 4 []).periodReg ≤ (st .sounding true false false true 5 4 []).counter + 1) ∧
      ((st .sounding true false false true 5 3 []).dutyEn = true ∧
        (st .sounding true false false true 5 3 []).counter + 1 < (st .sounding true false false true 5 3 []).periodReg) := by
  decide

theorem witness_FallSilencesAndClearsError :
    (cyc false true 12908).rst = false ∧ (cyc false true 12908).gate = false := by decide

theorem witness_RiseOutOfRangeRaisesError :
    ((cyc true false 63629).rst = false ∧ (cyc true false 63629).gate = true ∧
        63629 ≤ (cyc true false 63629).cvCode) ∧
      romT (silentSt []).cfg 60#6 = some 63629 ∧ (silentSt []).dutyEn = false ∧
      ∃ t, exec (.riseOor false 63629) (silentSt []) = .next t :=
  ⟨by decide, romT_top_fx, rfl, _, by rw [exec_riseOor, if_pos (by decide)]⟩

theorem witness_RiseValidProgramsTheNote :
    ((cyc true false 63628).rst = false ∧ (cyc true false 63628).gate = true ∧
        (cyc true false 63628).cvCode < 63629) ∧
      romT (silentSt []).cfg 60#6 = some 63629 ∧ 63628 < 63629 ∧ 0 < 63629 :=
  ⟨by decide, romT_top_fx, by decide, by decide⟩

theorem witness_MismatchedRiseRefused :
    romT (silentSt []).cfg 60#6 = some 63629 ∧ 63629 ≤ 63629 ∧ 63628 < 63629 :=
  ⟨romT_top_fx, by decide, by decide⟩

/-! ### The quantizer -/

theorem witness_QuantizeFindsSmallestThresholdAbove :
    romT fx 60#6 = some 63629 ∧ 63629 ≤ 63629 ∧ 63628 < 63629 ∧ 999 < 63629 :=
  ⟨romT_top_fx, by decide, by decide, by decide⟩

theorem witness_ComparatorBankEqualsSearch :
    (comparators fx 2800)[1]? = some true ∧ (comparators fx 63629)[60]? = some true := by decide

theorem witness_NoteIsAtMost59 :
    romT fx 59#6 = some 62685 ∧ romT fx 60#6 = some 63629 ∧ (quantize fx 62685).oor = false ∧
      (quantize fx 62685).note.val = 59 ∧ (quantize fx 63629).oor = true := by decide

theorem witness_OutOfRangeAtTopThreshold :
    romT fx 60#6 = some 63629 ∧ (quantize fx 63629).oor = true ∧ fx.val.isDefault = true ∧ fx.val.sampleW = 16 ∧
      fx.val.vref.value = 3.3 := ⟨by decide, by decide, rfl, rfl, fx_values.2.1⟩

theorem witness_NoteZeroBelowSecondThreshold :
    romT fx 0#6 = some 1000 ∧ romT fx 1#6 = some 2800 ∧ 999 < 1000 ∧ 2799 < 2800 := by decide

theorem witness_QuantizeIsMonotone :
    romT fx 60#6 = some 63629 ∧ 11799 < 11800 ∧ 11800 < 63629 ∧
      (quantize fx 11799).note < (quantize fx 11800).note := by decide

/-- One line a clause: (a), (b), (c) on both sides of the run of equal thresholds, (d). -/
theorem witness_ThresholdEqualityCorners :
    (romT fx 60#6 = some 63629 ∧ romT fx (BitVec.ofNat 6 6) = some 11800 ∧ 11800 < 63629) ∧
      romT fx (BitVec.ofNat 6 59) = some 62685 ∧
      (romT flat 60#6 = some 63629 ∧ romT flat (BitVec.ofNat 6 3) = some 6400 ∧
        romT flat (BitVec.ofNat 6 5) = some 6400 ∧ 6399 < 63629 ∧ 6400 < 63629) ∧
      romT flat 59#6 = some 63629 := by decide

/-! ### The ROMs and the configuration -/

theorem witness_PeriodRomHoldsRoundedReciprocal :
    fx.val.fClk.value = 1000000 ∧ romP fx 0x06#7 = some 43253 := ⟨fx_values.1, by decide⟩

theorem witness_FrequencyErrorWithinBound :
    (freqBank fx.val false)[(6 : Note).val]? = some ⟨2312, 100⟩ ∧ romP fx (periodAddr false 6) = some 43253 := by decide

/-- The range at 16 bits and 1 MHz, from both sides of both bounds, and a word of 20 bits at another clock. -/
theorem witness_PeriodRangeIsFrequencyRange :
    romP fx 0x7C#7 = some 60 ∧ romP other 0x06#7 = some 619299 ∧ Config.defaultClock.positive = true ∧
      (⟨2000000, 3⟩ : Ratio).positive = true ∧ (⟨2000000, 131070⟩ : Ratio).positive = true ∧
      periodInRange 16 (periodOf Config.defaultClock ⟨2000000, 3⟩) = true ∧
      periodInRange 16 (periodOf Config.defaultClock ⟨2000001, 3⟩) = false ∧
      periodInRange 16 (periodOf Config.defaultClock ⟨2000000, 131070⟩) = true ∧
      periodInRange 16 (periodOf Config.defaultClock ⟨2000000, 131071⟩) = false := by decide

/-- The premises of the two pins are met by one configuration and not by another. -/
theorem witness_ConfigCheckMeansRules :
    (configOk fixture = true ∧ fixture.isDefault = true ∧ fixture.sampleW = 16 ∧ fixture.vref.value = 3.3) ∧
      (configOk otherFixture = true ∧ otherFixture.sampleW = 12) ∧ configOk { fixture with thresh := [] } = false :=
  ⟨⟨fixture_ok, rfl, rfl, fx_values.2.1⟩, ⟨otherFixture_ok, rfl⟩, by decide⟩

theorem witness_StartRunRefusesBadConfiguration :
    configOk otherFixture = true ∧ configOk { fixture with fClk := ⟨0, 1⟩ } = false := ⟨otherFixture_ok, by decide⟩

theorem witness_OpenTablesReachEveryLegalTable :
    configOk fixture = true ∧ fixture.isDefault = true ∧ fixture.fClk = Config.defaultClock ∧
      fixture.sampleW = Config.defaultSampleW ∧ fixture.periodW = Config.defaultPeriodW ∧
      fixture.vref = Config.defaultVref := ⟨fixture_ok, rfl, rfl, rfl, rfl, rfl⟩

theorem witness_UnitConversionsPreserveOrder :
    0 < 12 ∧ (⟨5, 1⟩ : Ratio).positive = true ∧ 0 < (⟨3204, 1000⟩ : Ratio).den ∧ 0 < (⟨0, 1⟩ : Ratio).den := by decide

/-! ### The divider -/

theorem witness_TickCountsWithinPeriod :
    (silentSt []).dutyEn = false ∧ (st .sounding true false false true 5 4 []).dutyEn = true ∧
      (st .sounding true false false true 5 4 []).periodReg ≤ (st .sounding true false false true 5 4 []).counter + 1 ∧
      (st .sounding true false false true 5 3 []).counter + 1 < (st .sounding true false false true 5 3 []).periodReg ∧
      (st .sounding true false false true 5 5 []).periodReg ≤ (st .sounding true false false true 5 5 []).counter ∧
      (st .sounding true false false true 1 0 []).periodReg ≤ 1 := by decide

theorem witness_ProgramRestartsPhaseHigh : 2 ≤ (2 : Nat) := by decide

theorem witness_SilenceKeepsPeriod : (silentSt []).dutyEn = false ∧ (silentSt []).counter = 0 := by decide

theorem witness_WaveformHighForHalfThePeriod :
    (silentSt []).dutyEn = false ∧ (soundingSt []).dutyEn = true := by decide

theorem witness_DutyIsNearlyHalf :
    ((soundingSt []).dutyEn = true ∧ 0 < (soundingSt []).periodReg) ∧
      (st .sounding true false false true 4 0 []).dutyEn = true ∧
      0 < (st .sounding true false false true 4 0 []).periodReg ∧
      (st .sounding true false false true 4 0 []).periodReg % 2 = 0 := by decide

theorem witness_CounterRunsModuloPeriod :
    (soundingSt [cyc true false 0, cyc true true 65535]).wasReset = true ∧
      (soundingSt [cyc true false 0, cyc true true 65535]).gatePrev = true ∧
      (soundingSt [cyc true false 0, cyc true true 65535]).dutyEn = true ∧
      5 < 43253 ∧
      (∀ v ∈ [cyc true false 0, cyc true true 65535], v.rst = false ∧ v.gate = true ∧ v.fits 16 = true) ∧
      (soundingSt [cyc true false 0, cyc true true 65535]).script =
        [cyc true false 0, cyc true true 65535].map pinsOf ++ [] :=
  ⟨rfl, rfl, rfl, by decide, by simp [cyc, Inputs.fits], (List.append_nil _).symm⟩

/-! ### The cycle step -/

theorem witness_StepRefinesCycleRule : (silentSt [cyc true false 12908]).Presents (cyc true false 12908) [] :=
  st_presents (by decide)

theorem witness_StepRunsDecodedOperation :
    (silentSt [cyc true false 12908]).Presents (cyc true false 12908) [] ∧
      romT (silentSt [cyc true false 12908]).cfg 60#6 = some 63629 := ⟨st_presents (by decide), romT_top_fx⟩

/-- A state for each of the four refusals, and one that completes. -/
theorem witness_StepRefusesOnlyWhatTheSpecRefuses :
    (silentSt []).script = [] ∧
      { silentSt [] with script := [⟨.nonBinary, .low, .low, 0⟩] }.script = [⟨.nonBinary, .low, .low, 0⟩] ∧
      ({ silentSt [cyc true false 0] with wasReset := false }.script = [pinsOf (cyc true false 0)] ∧
        (pinsOf (cyc true false 0)).sample = some (cyc true false 0) ∧ (cyc true false 0).rst = false ∧
        { silentSt [cyc true false 0] with wasReset := false }.wasReset = false) ∧
      ((silentSt [cyc true false 65536]).script = [pinsOf (cyc true false 65536)] ∧
        (pinsOf (cyc true false 65536)).sample = some (cyc true false 65536) ∧
        2 ^ (silentSt []).cfg.val.sampleW ≤ (cyc true false 65536).cvCode) ∧
      (silentSt [cyc true false 0]).Completes :=
  ⟨rfl, rfl, ⟨rfl, sample_pinsOf _, by decide, rfl⟩, ⟨rfl, sample_pinsOf _, by decide⟩, st_steps (by decide)⟩

theorem witness_EveryBinaryCycleCompletes :
    { silentSt [] with script := [⟨.high, .low, .low, 0⟩], wasReset := false }.script = [⟨.high, .low, .low, 0⟩] ∧
      (Level.high ≠ .nonBinary ∧ Level.low ≠ .nonBinary) ∧ 0 ≤ 2 ^ (silentSt []).cfg.val.sampleW - 1 ∧
      (silentSt [rstCyc]).wasReset = true :=
  ⟨rfl, by decide, by decide, rfl⟩

theorem witness_ResetOverridesEveryEvent :
    { soundingSt [] with script := [pinsOf rstAll], wasReset := false }.script = pinsOf rstAll :: [] ∧
      rstAll.fits (soundingSt []).cfg.val.sampleW = true ∧ rstAll.rst = true := by decide

theorem witness_PortsAreSampledEveryCycle :
    (silentSt [cyc true true 0]).Presents (cyc true true 0) [] ∧ (cyc true true 0).rst = false ∧
      ∃ t, step (silentSt [cyc true true 0]) = .next t := ⟨st_presents (by decide), by decide, st_steps (by decide)⟩

theorem witness_HeldGateGivesOneEdge :
    (silentSt [cyc true false 12908, cyc true true 0, cyc true false 65535]).Presents (cyc true false 12908)
        ([cyc true true 0, cyc true false 65535].map pinsOf) ∧
      [cyc true true 0, cyc true false 65535].map pinsOf =
        [cyc true true 0].map pinsOf ++ pinsOf (cyc true false 65535) :: [] ∧
      (cyc true false 12908).rst = false ∧
      (silentSt [cyc true false 12908, cyc true true 0, cyc true false 65535]).gatePrev ≠ (cyc true false 12908).gate ∧
      (∀ x ∈ cyc true false 65535 :: [cyc true true 0],
        x.rst = false ∧ x.gate = (cyc true false 12908).gate ∧ x.fits 16 = true) ∧
      ∃ t, runCycles ([cyc true true 0].length + 1)
        (silentSt [cyc true false 12908, cyc true true 0, cyc true false 65535]) = .next t :=
  ⟨st_presents (by decide), by simp, by decide, by decide, by simp [cyc, Inputs.fits],
    twoCycles_run rfl rfl (by decide) (by decide)⟩

theorem witness_RiseUsesTheOldBank :
    (∃ t, exec (.riseValid false 12908) (silentSt []) = .next t) ∧
      ∃ t, exec (.riseValid true 12908) (silentSt []) = .next t :=
  ⟨⟨_, by rw [exec_riseValid, if_neg (by decide)]⟩, ⟨_, by rw [exec_riseValid, if_neg (by decide)]⟩⟩

theorem witness_SampleIgnoredOutsideRise :
    ¬(false = false ∧ (soundingSt []).gatePrev = false ∧ true = true) ∧
      ¬(true = false ∧ (silentSt []).gatePrev = false ∧ true = true) ∧
      0 < 2 ^ (silentSt []).cfg.val.sampleW ∧ 65535 < 2 ^ (silentSt []).cfg.val.sampleW := by decide

/-- A valid RISE changes both registers; a FALL changes `duty_en`. -/
theorem witness_OnlyRiseFallResetProgram :
    (silentSt [cyc true false 12908]).Presents (cyc true false 12908) [] ∧
      (∃ t, step (silentSt [cyc true false 12908]) = .next t ∧
        t.periodReg ≠ (silentSt [cyc true false 12908]).periodReg ∧
        t.dutyEn ≠ (silentSt [cyc true false 12908]).dutyEn) ∧
      (soundingSt [cyc false false 0]).Presents (cyc false false 0) [] ∧
      ∃ t, step (soundingSt [cyc false false 0]) = .next t ∧ t.dutyEn ≠ (soundingSt [cyc false false 0]).dutyEn :=
  ⟨st_presents (by decide), ⟨_, st_steps_to (by decide), by decide, by decide⟩, st_presents (by decide),
    ⟨_, st_steps_to (by decide), by decide⟩⟩

/-- A RISE at the top code raises the flag; a FALL clears it. -/
theorem witness_ErrorFlagSetAndCleared :
    ((silentSt [cyc true false 63629]).Presents (cyc true false 63629) [] ∧
        romT (silentSt [cyc true false 63629]).cfg 60#6 = some 63629 ∧
        (silentSt [cyc true false 63629]).errFlag = false ∧
        (decodeIn (silentSt [cyc true false 63629]) (cyc true false 63629)).event = .rise ∧
        63629 ≤ (cyc true false 63629).cvCode ∧
        ∃ t, step (silentSt [cyc true false 63629]) = .next t ∧ t.errFlag = true) ∧
      (errorSt [cyc false false 0]).Presents (cyc false false 0) [] ∧
      (decodeIn (errorSt [cyc false false 0]) (cyc false false 0)).event = .fall ∧
      ∃ t, step (errorSt [cyc false false 0]) = .next t ∧ t.errFlag = false :=
  ⟨⟨st_presents (by decide), romT_top_fx, rfl, by decide, by decide, _, st_steps_to (by decide), by decide⟩,
    st_presents (by decide), by decide, _, st_steps_to (by decide), by decide⟩

theorem witness_ErrorPersistsUntilFall :
    (errorSt [cyc true false 0, cyc true true 65535]).wasReset = true ∧
      (errorSt [cyc true false 0, cyc true true 65535]).errFlag = true ∧
      (errorSt [cyc true false 0, cyc true true 65535]).script = [cyc true false 0, cyc true true 65535].map pinsOf ++ [] ∧
      (∀ v ∈ [cyc true false 0, cyc true true 65535], v.fits 16 = true) ∧
      noFallOrReset true [cyc true false 0, cyc true true 65535] = true :=
  ⟨rfl, rfl, (List.append_nil _).symm, by simp [cyc, Inputs.fits], by decide⟩

theorem witness_StepKeepsBothRoms : ∃ t, step (silentSt [cyc true false 12908]) = .next t := st_steps (by decide)

theorem witness_CounterOnlyShowsInOscOut : ∃ t, step (soundingSt [cyc true false 0]) = .next t := st_steps (by decide)

/-! ### Invariants -/

/-- The invariant holds in a silent, a sounding and an error state, and each of them steps. -/
theorem witness_StepKeepsConsistent :
    ((silentSt [cyc true false 12908]).Consistent ∧ ∃ t, step (silentSt [cyc true false 12908]) = .next t) ∧
      ((soundingSt [cyc true false 0]).Consistent ∧ ∃ t, step (soundingSt [cyc true false 0]) = .next t) ∧
      (errorSt [cyc false false 0]).Consistent ∧ ∃ t, step (errorSt [cyc false false 0]) = .next t :=
  ⟨⟨silentSt_consistent _, st_steps (by decide)⟩, ⟨soundingSt_consistent _, st_steps (by decide)⟩, errorSt_consistent _,
    st_steps (by decide)⟩

/-- Registers at the top of their width step; and registers of 20 bits do. -/
theorem witness_StepKeepsRegisterWidths :
    ((st .sounding true false false true 65535 65534 [cyc true false 0]).registersFit ∧
        ∃ t, step (st .sounding true false false true 65535 65534 [cyc true false 0]) = .next t) ∧
      { st .sounding true false false true 1048575 0 [] with cfg := other }.registersFit :=
  ⟨⟨by unfold State.registersFit; decide, st_steps (by decide)⟩, by unfold State.registersFit; decide⟩

/-- A run of a reset and a valid RISE, from sounding registers. -/
theorem witness_EveryRunIsConsistent :
    ∃ s0 s1 t, startRun fixture [rstCyc, cyc true false 12908] (soundingSt []) = .next s0 ∧
      step s0 = .next s1 ∧ step s1 = .next t ∧ runCycles 2 s0 = .next t ∧ t.wasReset = true ∧ t.dutyEn = true := by
  have h1 := step_eq_cycleResult
    (s := { soundingSt [] with script := [rstCyc, cyc true false 12908].map pinsOf, wasReset := false })
    rfl (sample_pinsOf rstCyc) (by decide) (by decide)
  have h2 := step_eq_cycleResult
    (s := cycleResult { soundingSt [] with script := [cyc true false 12908].map pinsOf, wasReset := false } rstCyc)
    rfl (sample_pinsOf (cyc true false 12908)) (by decide) (by decide)
  refine ⟨_, _, _, dif_pos fixture_ok, h1, h2, ?_, by decide, by decide⟩
  exact (runCycles_succ 1 h1).trans (runCycles_succ 0 h2)

theorem witness_EveryRiseStartsSilent :
    (silentSt [cyc true false 63629]).Consistent ∧
      (silentSt [cyc true false 63629]).Presents (cyc true false 63629) [] ∧
      (decodeIn (silentSt [cyc true false 63629]) (cyc true false 63629)).event = .rise ∧
      decodeIn (silentSt [cyc true false 63629]) (cyc true false 63629) = .riseOor false 63629 ∧
      ∃ t, step (silentSt [cyc true false 63629]) = .next t :=
  ⟨silentSt_consistent _, st_presents (by decide), by decide, by decide, st_steps (by decide)⟩

/-! ### Runs of two cycles -/

theorem witness_FirstCycleAfterResetUsesBankZero :
    (soundingSt [rstCyc, cyc true true 12908]).script = pinsOf rstCyc :: pinsOf (cyc true true 12908) :: [] ∧
      rstCyc.fits 16 = true ∧ (cyc true true 12908).fits 16 = true ∧ rstCyc.rst = true ∧
      (cyc true true 12908).rst = false ∧ (cyc true true 12908).gate = true ∧
      romT (soundingSt [rstCyc, cyc true true 12908]).cfg 60#6 = some 63629 ∧
      (cyc true true 12908).cvCode < 63629 :=
  ⟨rfl, by decide, by decide, by decide, by decide, by decide, romT_top_fx, by decide⟩

theorem witness_OneCyclePulseSoundsOneCycle :
    let v := cyc true false 12908
    let w := cyc false false 0
    (silentSt [v, w]).wasReset = true ∧ (silentSt [v, w]).gatePrev = false ∧
      (silentSt [v, w]).script = pinsOf v :: pinsOf w :: [] ∧ v.fits 16 = true ∧ w.fits 16 = true ∧
      v.rst = false ∧ v.gate = true ∧
      w.rst = false ∧ w.gate = false ∧ romT (silentSt [v, w]).cfg 60#6 = some 63629 ∧
      v.cvCode < 63629 :=
  ⟨rfl, rfl, rfl, by decide, by decide, by decide, by decide, by decide, by decide, romT_top_fx, by decide⟩

/-! ### Encodings and stimulus -/

theorem witness_DecodeEncodeRoundTrip :
    (Instr.reset).wellFormed 16 63629 = true ∧ (Instr.idleLow true).wellFormed 16 63629 = true ∧
      (Instr.riseValid true 63628).wellFormed 16 63629 = true ∧ (Instr.riseOor false 65535).wellFormed 16 63629 = true ∧
      (Instr.fall true).wellFormed 16 63629 = true ∧ (Instr.idleHigh false).wellFormed 16 63629 = true ∧
      (Instr.riseOor false 4095).wellFormed 12 3976 = true := by decide

theorem witness_EncodeDecodeKeepsReadBits :
    (vectorInputs (w := 16) 0x3326C#19).rst = false ∧ (vectorInputs (w := 16) 0x3326C#19).gate = true := by decide

theorem witness_InputVectorLayout :
    (cyc true false 65535).fits 16 = true ∧ (cyc true false 4095).fits 12 = true := by decide

theorem witness_TableWordRunsNext :
    (silentSt []).cfg.val.isDefault = true ∧ (silentSt []).cfg.val.sampleW = 16 ∧
      (silentSt []).cfg.val.vref.value = 3.3 ∧ decodeTableWord 8 3 = some (.idleHigh false) ∧
      decodeTableWord 20 1048575 = some (.reset) := ⟨rfl, rfl, fx_values.2.1, by decide, by decide⟩

theorem witness_StatementsExpandToCycles :
    (cyc true false 65535).fits 16 = true ∧ 65535 ≤ 2 ^ 16 - 1 ∧ 2 ^ 16 ≤ 65536 ∧ 1 ≤ 1 := by decide

theorem witness_ThresholdRomMap : romT fx 0#6 = some 1000 ∧ romT fx 60#6 = some 63629 := by decide

/-- The last address of each bank and of the threshold ROM, and the first one that is reserved. -/
theorem witness_PeriodRomMap :
    60 ≤ 60 ∧ romP fx 0x3D#7 = none ∧ romP fx 0x7D#7 = none ∧ (60#6).toNat ≤ 0x3C ∧ 0x3D ≤ (61#6).toNat := by decide

/-- Both rules of a RISE, at the samples where they meet. -/
theorem witness_OperationWordSelectsEvent :
    (0b100#3 ≤ 0b100#3) ∧ decodeOp (opWord false false true) = .rise ∧
      63629 ≤ (cyc true false 63629).cvCode ∧ (cyc true false 63628).cvCode < 63629 := by decide

end Sys2Proof.Tests
end

section
/-! PROOFS. The statements of 00_scope.md: the conversions of R11, the configuration check of R7 and R8, the OPEN tables
(log 3) and the state after reset. -/

namespace Sys2Proof.Machine

/-! ### The order of ratios and the conversions of R11 -/

/-- The comparison of cross products is the comparison of the numbers. -/
theorem Ratio.le_iff_value_le {a b : Ratio} (ha : 0 < a.den) (hb : 0 < b.den) :
    a.le b = true ↔ a.value ≤ b.value := by
  rw [Ratio.le_iff, Ratio.value, Ratio.value, div_le_div_iff₀ (by exact_mod_cast ha) (by exact_mod_cast hb)]
  norm_cast

theorem Ratio.same_iff_value_eq {a b : Ratio} (ha : 0 < a.den) (hb : 0 < b.den) :
    a.same b = true ↔ a.value = b.value := by
  have ha' : (a.den : ℚ) ≠ 0 := by exact_mod_cast ha.ne'
  have hb' : (b.den : ℚ) ≠ 0 := by exact_mod_cast hb.ne'
  rw [Ratio.same, decide_eq_true_eq, Ratio.value, Ratio.value, div_eq_div_iff ha' hb']
  norm_cast

theorem Ratio.value_pos {a : Ratio} (h : a.positive = true) : 0 < a.value := by
  obtain ⟨hn, hd⟩ := (Ratio.positive_iff a).1 h
  have hn' : (0 : ℚ) < a.num := by exact_mod_cast hn
  have hd' : (0 : ℚ) < a.den := by exact_mod_cast hd
  exact div_pos hn' hd'

/-- The ceiling of a quotient of natural numbers, as the threshold conversion computes it. -/
theorem natCast_add_pred_div_eq_ceil (a : Nat) {d : Nat} (hd : 0 < d) :
    (((a + (d - 1)) / d : Nat) : ℤ) = ⌈(a : ℚ) / (d : ℚ)⌉ := by
  have hd' : (0 : ℚ) < d := by exact_mod_cast hd
  have hceil : (a + (d - 1)) / d = ⌈(a : ℚ) / (d : ℚ)⌉₊ := by
    rw [← Nat.add_sub_assoc hd, ← Nat.ceilDiv_eq_add_pred_div]
    refine eq_of_forall_ge_iff fun n => ?_
    rw [ceilDiv_le_iff_le_mul hd, Nat.ceil_le, div_le_iff₀ hd', mul_comm]
    norm_cast
  rw [hceil, Int.natCast_ceil_eq_ceil (by positivity)]

/-- The scaled value of R11 as the quotient that both conversions round. -/
theorem scaledValue_eq_div (w : Nat) (vref t : Ratio) :
    t.value * (2 ^ w - 1) / vref.value =
      ((t.num * (2 ^ w - 1) * vref.den : Nat) : ℚ) / ((t.den * vref.num : Nat) : ℚ) := by
  have hpow : (((2 ^ w - 1 : Nat)) : ℚ) = 2 ^ w - 1 := by
    rw [Nat.cast_sub Nat.one_le_two_pow]; norm_cast
  rw [Nat.cast_mul, Nat.cast_mul, Nat.cast_mul, hpow, Ratio.value, Ratio.value, div_div_eq_mul_div, div_mul_eq_mul_div,
    div_mul_eq_mul_div, div_div]

theorem thresholdCode_eq_ceil {w : Nat} {vref t : Ratio} (hv : vref.positive = true) (ht : 0 < t.den) :
    (thresholdCode w vref t : ℤ) = ⌈t.value * (2 ^ w - 1) / vref.value⌉ := by
  rw [scaledValue_eq_div, thresholdCode,
    natCast_add_pred_div_eq_ceil _ (Nat.mul_pos ht ((Ratio.positive_iff vref).1 hv).1)]

theorem sampleCode_eq_floor (w : Nat) (vref t : Ratio) :
    (sampleCode w vref t : ℤ) = ⌊t.value * (2 ^ w - 1) / vref.value⌋ := by
  rw [scaledValue_eq_div, sampleCode, Rat.floor_natCast_div_natCast]
  norm_cast

/-- A code is below the code of a threshold exactly if the value it represents is below the threshold (R11). -/
theorem lt_thresholdCode_iff {w : Nat} {vref t : Ratio} (hw : 0 < w) (hv : vref.positive = true) (ht : 0 < t.den)
    (s : Nat) : s < thresholdCode w vref t ↔ (s : ℚ) * vref.value / (2 ^ w - 1) < t.value := by
  have hpow : (0 : ℚ) < 2 ^ w - 1 := sub_pos.2 (one_lt_pow₀ (by norm_num) hw.ne')
  calc s < thresholdCode w vref t
      ↔ (s : ℤ) < ⌈t.value * (2 ^ w - 1) / vref.value⌉ := by rw [← thresholdCode_eq_ceil hv ht, Nat.cast_lt]
    _ ↔ (s : ℚ) < t.value * (2 ^ w - 1) / vref.value := by rw [Int.lt_ceil, Int.cast_natCast]
    _ ↔ (s : ℚ) * vref.value / (2 ^ w - 1) < t.value := by rw [lt_div_iff₀ (Ratio.value_pos hv), div_lt_iff₀ hpow]

/-- Settles O23: both conversions round the quotient of `scaledValue_eq_div`, and a ceiling keeps the order of codes. -/
theorem unitConversionsPreserveOrder : Obligations.UnitConversionsPreserveOrder :=
  ⟨fun w vref t hw hv ht =>
    ⟨thresholdCode_eq_ceil hv ht, sampleCode_eq_floor w vref t, lt_thresholdCode_iff hw hv ht⟩, by decide, by decide⟩

/-! ### What each check of R7, R8 and R90 says -/

theorem nonDecreasing_iff {α : Type} (le : α → α → Bool) (l : List α) :
    nonDecreasing le l = true ↔ ∀ i a b, l[i]? = some a → l[i + 1]? = some b → le a b = true := by
  induction l with
  | nil => simp [nonDecreasing]
  | cons x rest ih =>
    cases rest with
    | nil => simp [nonDecreasing]
    | cons y rest =>
      rw [nonDecreasing, Bool.and_eq_true, ih]
      constructor
      · rintro ⟨hxy, hrest⟩ i a b ha hb
        cases i with
        | zero => simp_all
        | succ i => exact hrest i a b (by simpa using ha) (by simpa using hb)
      · exact fun h => ⟨h 0 x y rfl rfl, fun i a b ha hb => h (i + 1) a b (by simpa using ha) (by simpa using hb)⟩

theorem threshCountOk_iff (c : Config) :
    threshCountOk c = true ↔ c.thresh.length = 61 ∧ ∀ t ∈ c.thresh, t < 2 ^ c.sampleW := by
  simp [threshCountOk, Config.nThresh]

theorem threshOrderOk_iff (c : Config) :
    threshOrderOk c = true ↔ ∀ i a b, c.thresh[i]? = some a → c.thresh[i + 1]? = some b → a ≤ b := by
  simp [threshOrderOk, nonDecreasing_iff]

/-- R7(c) and R7(d): the two pins bind the default table under the default width and reference voltage only. -/
theorem threshPinsOk_iff (c : Config) :
    (threshTopOk c = true ∧ threshRoundTripOk c = true) ↔
      (c.isDefault = true → c.sampleW = 16 → c.vref.value = 3.3 →
        c.thresh[60]? = some 63629 ∧
          (∃ a, c.thresh[6]? = some a ∧ a ≤ 12908) ∧ ∃ b, c.thresh[7]? = some b ∧ 12908 < b) := by
  have hdefault := hasDefaultCodes_iff c
  by_cases h : hasDefaultCodes c = true
  · obtain ⟨hmark, hwidth, hvref⟩ := hdefault.1 h
    simp only [threshTopOk, threshRoundTripOk, h, hmark, hwidth, hvref, Bool.not_true, Bool.false_or, beq_iff_eq,
      Bool.and_eq_true, Option.any_eq_true, decide_eq_true_eq, forall_const]
    exact Iff.rfl
  · have hnot : ¬(c.isDefault = true ∧ c.sampleW = 16 ∧ c.vref.value = 3.3) := fun h' => h (hdefault.2 h')
    have hfree : threshTopOk c = true ∧ threshRoundTripOk c = true := by simp [threshTopOk, threshRoundTripOk, h]
    exact iff_of_true hfree fun hmark hwidth hvref => absurd ⟨hmark, hwidth, hvref⟩ hnot

theorem freqCountOk_iff (c : Config) : freqCountOk c = true ↔ c.freq0.length = 61 ∧ c.freq1.length = 61 := by
  simp [freqCountOk, Config.nNote]

theorem freqPositiveOk_iff (c : Config) :
    freqPositiveOk c = true ↔ ∀ f, f ∈ c.freq0 ∨ f ∈ c.freq1 → 0 < f.num ∧ 0 < f.den := by
  simp only [freqPositiveOk, Bool.and_eq_true, List.all_eq_true, Ratio.positive_iff, forall₂_or_left]

theorem periodsOk_iff (c : Config) :
    periodsOk c = true ↔
      ∀ f, f ∈ c.freq0 ∨ f ∈ c.freq1 → 2 ≤ periodOf c.fClk f ∧ periodOf c.fClk f ≤ 2 ^ c.periodW - 1 := by
  simp only [periodsOk, Bool.and_eq_true, List.all_eq_true, periodInRange_iff, forall₂_or_left]

/-- A table of fractions with positive denominators is non-decreasing exactly if its values are. -/
theorem nonDecreasing_ratio_iff {l : List Ratio} (hden : ∀ f ∈ l, 0 < f.den) :
    nonDecreasing Ratio.le l = true ↔ ∀ i f g, l[i]? = some f → l[i + 1]? = some g → f.value ≤ g.value := by
  rw [nonDecreasing_iff]
  refine forall_congr' fun i => forall₂_congr fun f g => forall₂_congr fun hf hg => ?_
  exact Ratio.le_iff_value_le (hden f (List.mem_of_getElem? hf)) (hden g (List.mem_of_getElem? hg))

/-- A pin of a table of fractions with positive denominators fixes the entry's value. -/
theorem any_same_iff {l : List Ratio} (hden : ∀ f ∈ l, 0 < f.den) {r : Ratio} (hr : 0 < r.den) (i : Nat) :
    (l[i]?).any (Ratio.same r) = true ↔ ∃ f, l[i]? = some f ∧ f.value = r.value := by
  rw [Option.any_eq_true]
  refine exists_congr fun f => and_congr_right fun hf => ?_
  rw [Ratio.same_iff_value_eq hr (hden f (List.mem_of_getElem? hf)), eq_comm]

theorem freqOrderOk_iff {c : Config} (hden : ∀ f, f ∈ c.freq0 ∨ f ∈ c.freq1 → 0 < f.den) :
    freqOrderOk c = true ↔ ∀ i f g,
      (c.freq0[i]? = some f ∧ c.freq0[i + 1]? = some g) ∨ (c.freq1[i]? = some f ∧ c.freq1[i + 1]? = some g) →
        f.value ≤ g.value := by
  rw [freqOrderOk, Bool.and_eq_true, nonDecreasing_ratio_iff fun f hf => hden f (.inl hf),
    nonDecreasing_ratio_iff fun f hf => hden f (.inr hf)]
  simp only [or_imp, and_imp, forall_and]

theorem freqLow_value : Config.freqLow.value = 16.35 := by norm_num [Config.freqLow, Ratio.value]

theorem freqNote6_value : Config.freqNote6.value = 23.12 := by norm_num [Config.freqNote6, Ratio.value]

theorem freqOverlap_value : Config.freqOverlap.value = 523.25 := by norm_num [Config.freqOverlap, Ratio.value]

theorem freqPinsOk_iff {c : Config} (hden : ∀ f, f ∈ c.freq0 ∨ f ∈ c.freq1 → 0 < f.den) :
    freqPinsOk c = true ↔ ∃ a b d e : Ratio,
      c.freq0[0]? = some a ∧ c.freq0[6]? = some b ∧ c.freq0[60]? = some d ∧ c.freq1[0]? = some e ∧
        a.value = (16.35 : ℚ) ∧ b.value = (23.12 : ℚ) ∧ d.value = (523.25 : ℚ) ∧ e.value = (523.25 : ℚ) := by
  have h0 : ∀ f ∈ c.freq0, 0 < f.den := fun f hf => hden f (.inl hf)
  have h1 : ∀ f ∈ c.freq1, 0 < f.den := fun f hf => hden f (.inr hf)
  rw [freqPinsOk, Bool.and_eq_true, Bool.and_eq_true, Bool.and_eq_true, any_same_iff h0 (by decide),
    any_same_iff h0 (by decide), any_same_iff h0 (by decide), any_same_iff h1 (by decide), freqLow_value,
    freqNote6_value, freqOverlap_value]
  constructor
  · rintro ⟨⟨⟨⟨a, ha, hav⟩, b, hb, hbv⟩, d, hd, hdv⟩, e, he, hev⟩
    exact ⟨a, b, d, e, ha, hb, hd, he, hav, hbv, hdv, hev⟩
  · rintro ⟨a, b, d, e, ha, hb, hd, he, hav, hbv, hdv, hev⟩
    exact ⟨⟨⟨⟨a, ha, hav⟩, b, hb, hbv⟩, d, hd, hdv⟩, e, he, hev⟩

/-- The check is the conjunction of its parts, the two threshold pins together. -/
theorem configOk_iff (c : Config) :
    configOk c = true ↔ threshCountOk c = true ∧ threshOrderOk c = true ∧
      (threshTopOk c = true ∧ threshRoundTripOk c = true) ∧ freqCountOk c = true ∧ freqPositiveOk c = true ∧
        freqOrderOk c = true ∧ freqPinsOk c = true ∧ periodsOk c = true := by
  simp only [configOk, Bool.and_eq_true, and_assoc]

/-- A run is not refused for its configuration exactly if the configuration passes the check (R63(b)). -/
theorem startRun_ne_badConfiguration_iff (c : Config) (vs : List Inputs) (s : State) :
    startRun c vs s ≠ .refused .badConfiguration ↔ configOk c = true := by
  unfold startRun
  split <;> simp [*]

/-- Settles O20: each check means its rule, and the positive frequencies of R8(a) are what lets the cross products of
R8(b) and R8(c) be read as numbers. -/
theorem configCheckMeansRules : Obligations.ConfigCheckMeansRules := by
  intro c vs s
  rw [startRun_ne_badConfiguration_iff, configOk_iff, threshCountOk_iff, threshOrderOk_iff, threshPinsOk_iff,
    freqCountOk_iff, freqPositiveOk_iff, periodsOk_iff, and_assoc, and_assoc]
  refine and_congr_right fun _ => and_congr_right fun _ => and_congr_right fun _ => and_congr_right fun _ =>
    and_congr_right fun _ => and_congr_right fun _ => and_congr_right fun hpos => ?_
  have hden : ∀ f, f ∈ c.freq0 ∨ f ∈ c.freq1 → 0 < f.den := fun f hf => (hpos f hf).2
  rw [freqOrderOk_iff hden, freqPinsOk_iff hden]

/-! ### The OPEN tables reach every legal default table -/

/-- The order of a bank's values, at any two indexes. -/
theorem legal_freq_value_le (c : LegalConfig) (b : Bool) {i j : Nat} {f g : Ratio} (hij : i ≤ j)
    (hf : (freqBank c.val b)[i]? = some f) (hg : (freqBank c.val b)[j]? = some g) : f.value ≤ g.value := by
  have horder : nonDecreasing Ratio.le (freqBank c.val b) = true := by
    obtain ⟨-, -, -, -, -, -, hboth, -, -⟩ := legal_checks c
    obtain ⟨h0, h1⟩ := Bool.and_eq_true_iff.1 hboth
    cases b
    · exact h0
    · exact h1
  have hvalues : nonDecreasing (fun f g : Ratio => decide (f.value ≤ g.value)) (freqBank c.val b) = true := by
    simpa [nonDecreasing_iff] using
      (nonDecreasing_ratio_iff fun _ hf => (legal_freq_positive c b hf).2).1 horder
  simpa using nonDecreasing_getElem? (fun f => by simp)
    (fun f g h => by simpa only [decide_eq_true_eq] using le_trans) hvalues hij hf hg

theorem legal_freq_pins (c : LegalConfig) : ∃ a b d e : Ratio,
    (freqBank c.val false)[0]? = some a ∧ (freqBank c.val false)[6]? = some b ∧
      (freqBank c.val false)[60]? = some d ∧ (freqBank c.val true)[0]? = some e ∧
      a.value = (16.35 : ℚ) ∧ b.value = (23.12 : ℚ) ∧ d.value = (523.25 : ℚ) ∧ e.value = (523.25 : ℚ) := by
  obtain ⟨-, -, -, -, -, hpositive, -, hpins, -⟩ := legal_checks c
  exact (freqPinsOk_iff fun f hf => ((freqPositiveOk_iff c.val).1 hpositive f hf).2).1 hpins

/-- The lower bounds of the OPEN frequencies hold in every legal bank. -/
theorem freqLowBound_le_legal (c : LegalConfig) (b : Bool) {n : Nat} {f : Ratio}
    (hf : (freqBank c.val b)[n]? = some f) : (freqLowBound b n).le f = true := by
  rw [Ratio.le_iff_value_le ((Ratio.positive_iff _).1 (freqLowBound_positive b n)).2
    (legal_freq_positive c b (List.mem_of_getElem? hf)).2]
  obtain ⟨f0, f6, f60, g0, h0, h6, h60, k0, v0, v6, v60, w0⟩ := legal_freq_pins c
  cases b
  · simp only [freqLowBound]
    split_ifs with hn6 hn60
    · rw [freqLow_value, ← v0]; exact legal_freq_value_le c false (Nat.zero_le n) h0 hf
    · rw [freqNote6_value, ← v6]; exact legal_freq_value_le c false (by omega) h6 hf
    · rw [freqOverlap_value, ← v60]; exact legal_freq_value_le c false (by omega) h60 hf
  · rw [freqLowBound, freqOverlap_value, ← w0]; exact legal_freq_value_le c true (Nat.zero_le n) k0 hf

/-- A period of at least 2 at the default clock bounds the frequency (R90). -/
theorem le_of_two_le_periodOf {f : Ratio} (hf : 0 < f.num) (h : 2 ≤ periodOf Config.defaultClock f) :
    f.le ⟨2000000, 3⟩ = true := by
  simp only [periodOf, Config.defaultClock] at h
  rw [Nat.le_div_iff_mul_le (by omega)] at h
  rw [Ratio.le_iff]
  simp only
  omega

/-- The upper bounds of the OPEN frequencies hold in every legal bank at the default clock. -/
theorem legal_le_freqHighBound (c : LegalConfig) (hclk : c.val.fClk = Config.defaultClock) (b : Bool) {n : Nat}
    {f : Ratio} (hn : n < 61) (hf : (freqBank c.val b)[n]? = some f) : f.le (freqHighBound b n) = true := by
  have hmem := List.mem_of_getElem? hf
  have hpos := legal_freq_positive c b hmem
  have hvalue {r : Ratio} (hr : 0 < r.den) : f.le r = true ↔ f.value ≤ r.value := Ratio.le_iff_value_le hpos.2 hr
  obtain ⟨f0, f6, f60, g0, h0, h6, h60, k0, v0, v6, v60, w0⟩ := legal_freq_pins c
  cases b <;> simp only [freqHighBound]
  case false =>
    split_ifs with hn0 hn6
    · rw [hvalue (by decide), freqLow_value, ← v0]; exact legal_freq_value_le c false (by omega) hf h0
    · rw [hvalue (by decide), freqNote6_value, ← v6]; exact legal_freq_value_le c false hn6 hf h6
    · rw [hvalue (by decide), freqOverlap_value, ← v60]; exact legal_freq_value_le c false (by omega) hf h60
  case true =>
    split_ifs with hn0
    · rw [hvalue (by decide), freqOverlap_value, ← w0]; exact legal_freq_value_le c true (by omega) hf k0
    · exact le_of_two_le_periodOf hpos.1 (hclk ▸ (legal_period_range c true hmem).1)

/-- Thresholds that keep the bounds and the order of a legal default table are their own running maximum. -/
theorem threshUpTo_eq_self {raw : Nat → Nat} (hlow : ∀ i < 61, threshLow i ≤ raw i)
    (hhigh : ∀ i < 61, raw i ≤ threshHigh i) (hmono : ∀ i, i + 1 < 61 → raw i ≤ raw (i + 1)) (i : Nat) (hi : i < 61) :
    threshUpTo raw i = raw i := by
  induction i with
  | zero => exact min_eq_left (hhigh 0 hi)
  | succ i ih =>
    rw [threshUpTo, ih (by omega), min_eq_left (hhigh _ hi), max_eq_right (hlow _ hi), max_eq_right (hmono i hi)]

theorem clampRatio_eq_self {lo hi f : Ratio} (hlo : lo.le f = true) (hhi : f.le hi = true) : clampRatio lo hi f = f := by
  simp [clampRatio, hlo, hhi]

/-- Frequencies that keep the bounds and the order of a legal default table are their own running maximum. -/
theorem freqEntry_eq_self {raw : Bool → Nat → Nat × Nat} {b : Bool}
    (hlow : ∀ n < 61, (freqLowBound b n).le (ratioOfPair (raw b n)) = true)
    (hhigh : ∀ n < 61, (ratioOfPair (raw b n)).le (freqHighBound b n) = true)
    (hmono : ∀ n, n + 1 < 61 → (ratioOfPair (raw b n)).le (ratioOfPair (raw b (n + 1))) = true) (n : Nat) (hn : n < 61) :
    freqEntry raw b n = ratioOfPair (raw b n) := by
  have hclamp (n : Nat) (hn : n < 61) : clampedFreq raw b n = ratioOfPair (raw b n) :=
    clampRatio_eq_self (hlow n hn) (hhigh n hn)
  induction n with
  | zero => exact hclamp 0 hn
  | succ n ih => rw [freqEntry, ih (by omega), hclamp _ hn, maxRatio, if_pos (hmono n hn)]

/-- The free values that give back a threshold table. -/
def rawThresholdsOf (c : Config) (i : Nat) : Nat := (c.thresh[i]?).getD 0

/-- The free values that give back two frequency tables: each numerator and denominator less one. -/
def rawFrequenciesOf (c : Config) (b : Bool) (n : Nat) : Nat × Nat :=
  let f := ((freqBank c b)[n]?).getD ⟨1, 1⟩
  (f.num - 1, f.den - 1)

theorem thresh_getElem?_eq_raw (c : LegalConfig) {i : Nat} (hi : i < 61) :
    c.val.thresh[i]? = some (rawThresholdsOf c.val i) := by
  obtain ⟨t, ht⟩ := legal_thresh_get c (Nat.le_of_lt_succ hi)
  rw [rawThresholdsOf, ht, Option.getD_some]

theorem freqBank_getElem?_eq_raw (c : LegalConfig) (b : Bool) {n : Nat} (hn : n < 61) :
    (freqBank c.val b)[n]? = some (ratioOfPair (rawFrequenciesOf c.val b n)) := by
  have hf := List.getElem?_eq_getElem (show n < (freqBank c.val b).length by rwa [legal_bank_length])
  obtain ⟨hnum, hden⟩ := legal_freq_positive c b (List.mem_of_getElem? hf)
  simp only [rawFrequenciesOf, hf, Option.getD_some, ratioOfPair, Nat.sub_add_cancel hnum, Nat.sub_add_cancel hden]

/-- A list is made by the function that reads it. -/
theorem map_range_eq_of_getElem? {α : Type} {l : List α} {f : Nat → α} {n : Nat} (hlen : l.length = n)
    (h : ∀ i < n, l[i]? = some (f i)) : (List.range n).map f = l := by
  refine List.ext_getElem (by simp [hlen]) fun i hi _ => ?_
  have hin : i < n := by simpa using hi
  simpa using (List.getElem_eq_iff _).2 (h i hin) |>.symm

/-- The threshold table of a legal configuration with the default codes is the one its own values give. -/
theorem map_threshEntry_eq (c : LegalConfig) (hdefault : hasDefaultCodes c.val = true) :
    (List.range 61).map (threshEntry (rawThresholdsOf c.val)) = c.val.thresh := by
  obtain ⟨hmark, hwidth, hvref⟩ := (hasDefaultCodes_iff c.val).1 hdefault
  obtain ⟨-, -, htop, htrip, -⟩ := legal_checks c
  obtain ⟨h60, ⟨a, h6, ha⟩, b, h7, hb⟩ := (threshPinsOk_iff c.val).1 ⟨htop, htrip⟩ hmark hwidth hvref
  have hget (i : Nat) (hi : i < 61) := thresh_getElem?_eq_raw c hi
  have hlow (i : Nat) (hi : i < 61) : threshLow i ≤ rawThresholdsOf c.val i := by
    unfold threshLow
    split_ifs with hi6
    · exact Nat.zero_le _
    · exact hb.trans_le (legal_thresh_le c (by omega) h7 (hget i hi))
  have hhigh (i : Nat) (hi : i < 61) : rawThresholdsOf c.val i ≤ threshHigh i := by
    unfold threshHigh
    split_ifs with hi6
    · exact (legal_thresh_le c hi6 (hget i hi) h6).trans ha
    · exact legal_thresh_le c (by omega) (hget i hi) h60
  have hmono (i : Nat) (hi : i + 1 < 61) : rawThresholdsOf c.val i ≤ rawThresholdsOf c.val (i + 1) :=
    legal_thresh_le c (Nat.le_succ i) (hget i (by omega)) (hget _ hi)
  refine map_range_eq_of_getElem? (legal_thresh_length c) fun i hi => ?_
  unfold threshEntry
  split_ifs with hi60
  · rw [hi60]; exact h60
  · rw [threshUpTo_eq_self hlow hhigh hmono i hi]; exact hget i hi

/-- A frequency table of a legal configuration at the default clock is the one its own values give. -/
theorem map_freqEntry_eq (c : LegalConfig) (hclk : c.val.fClk = Config.defaultClock) (b : Bool) :
    (List.range 61).map (freqEntry (rawFrequenciesOf c.val) b) = freqBank c.val b := by
  have hget (n : Nat) (hn : n < 61) := freqBank_getElem?_eq_raw c b hn
  have hmono (n : Nat) (hn : n + 1 < 61) : (ratioOfPair (rawFrequenciesOf c.val b n)).le
      (ratioOfPair (rawFrequenciesOf c.val b (n + 1))) = true :=
    (Ratio.le_iff_value_le (Nat.succ_pos _) (Nat.succ_pos _)).2
      (legal_freq_value_le c b (Nat.le_succ n) (hget n (by omega)) (hget _ hn))
  refine map_range_eq_of_getElem? (legal_bank_length c b) fun n hn => ?_
  rw [freqEntry_eq_self (fun n hn => freqLowBound_le_legal c b (hget n hn))
    (fun n hn => legal_le_freqHighBound c hclk b hn (hget n hn)) hmono n hn]
  exact hget n hn

/-- Settles O22: a legal default table meets the bounds and the order that the free values are brought to, so these leave
it as it is. -/
theorem openTablesReachEveryLegalTable : Obligations.OpenTablesReachEveryLegalTable := by
  intro c hok hmark hclk hsample hperiod hvref
  have hdefault : hasDefaultCodes c = true := by
    simp [hasDefaultCodes, hmark, hsample, hvref, Config.defaultVref, Ratio.same]
  have hthresh : (List.range 61).map (threshEntry (rawThresholdsOf c)) = c.thresh := map_threshEntry_eq ⟨c, hok⟩ hdefault
  have hfreq0 : (List.range 61).map (freqEntry (rawFrequenciesOf c) false) = c.freq0 :=
    map_freqEntry_eq ⟨c, hok⟩ hclk false
  have hfreq1 : (List.range 61).map (freqEntry (rawFrequenciesOf c) true) = c.freq1 :=
    map_freqEntry_eq ⟨c, hok⟩ hclk true
  refine ⟨rawThresholdsOf c, rawFrequenciesOf c, ?_⟩
  rw [configOf, hthresh, hfreq0, hfreq1, ← hclk, ← hsample, ← hperiod, ← hvref, ← hmark]

/-! ### The state after reset -/

theorem reset_consistent : State.reset.Consistent := fun _ =>
  ⟨rfl, ⟨fun _ => rfl, fun h => by simp at h⟩, fun h => by simp at h, .inl rfl⟩

theorem reset_registersFit : State.reset.registersFit := ⟨Nat.two_pow_pos _, Nat.two_pow_pos _⟩

/-- Settles O47. -/
theorem stateAfterResetIsConsistent : Obligations.StateAfterResetIsConsistent := by
  have hclock : Config.defaultClock.value = 1000000 := by norm_num [Config.defaultClock, Ratio.value]
  have hvref : Config.defaultVref.value = 3.3 := by norm_num [Config.defaultVref, Ratio.value]
  exact ⟨reset_consistent, reset_state, reset_gatePrev, reset_octaveQ, reset_errFlag, reset_dutyEn, reset_periodReg,
    reset_counter, reset_registersFit, State.reset.cfg.property, hclock, rfl, rfl, hvref⟩

end Sys2Proof.Machine
end

section
/-! PROOFS. The statements of 10_state.md: when a run starts and a step refuses, what one cycle keeps, and the
invariants of R30 and R31 with the register widths. Two case predicates carry them: `StepCase` says once what `step` answers, and
`CycleTo` says once where a cycle leads. -/

namespace Sys2Proof.Machine

/-! ### What a step answers -/

theorem Level.bit?_eq_none_iff (l : Level) : l.bit? = none ↔ l = .nonBinary := by cases l <;> simp [Level.bit?]

/-- A pin vector has no sample exactly if one of its one-bit ports is not binary (R63(c)). -/
theorem Pins.sample_eq_none_iff (p : Pins) :
    p.sample = none ↔ p.rst = .nonBinary ∨ p.gate = .nonBinary ∨ p.octSel = .nonBinary := by
  simp only [← Level.bit?_eq_none_iff, Pins.sample]
  cases p.rst.bit? with
  | none => simp
  | some r =>
    cases p.gate.bit? with
    | none => simp
    | some g => cases p.octSel.bit? <;> simp

theorem portFits_iff (s : State) (v : Inputs) : portFits s v = true ↔ v.cvCode < 2 ^ s.cfg.val.sampleW :=
  decide_eq_true_iff

theorem portFits_eq_false_iff (s : State) (v : Inputs) : portFits s v = false ↔ 2 ^ s.cfg.val.sampleW ≤ v.cvCode :=
  decide_eq_false_iff_not.trans Nat.not_lt

theorem mayRun_eq_false_iff (s : State) (v : Inputs) : mayRun s v = false ↔ v.rst = false ∧ s.wasReset = false :=
  Bool.or_eq_false_iff.trans and_comm

theorem mayRun_of_wasReset {s : State} (h : s.wasReset = true) (v : Inputs) : mayRun s v = true := by simp [mayRun, h]

/-- A run that has had no RESET takes RESET cycles only (R34). -/
theorem rst_of_mayRun {s : State} {v : Inputs} (h : mayRun s v = true) (hw : s.wasReset = false) : v.rst = true := by
  simpa [mayRun, hw] using h

/-- The answers of a step and the condition of each, in the order in which the step tests them. -/
inductive StepCase (s : State) : Host.Outcome State Fault Refusal → Prop
  | ended (hs : s.script = []) : StepCase s (.refused .scriptEnded)
  | nonBinary {pins : Pins} {rest : List Pins} (hs : s.script = pins :: rest) (hv : pins.sample = none) :
      StepCase s (.refused .nonBinaryInput)
  | tooWide {pins : Pins} {rest : List Pins} {v : Inputs} (hs : s.script = pins :: rest) (hv : pins.sample = some v)
      (hf : portFits s v = false) : StepCase s (.refused .codeTooWide)
  | noReset {pins : Pins} {rest : List Pins} {v : Inputs} (hs : s.script = pins :: rest) (hv : pins.sample = some v)
      (hf : portFits s v = true) (hm : mayRun s v = false) : StepCase s (.refused .runWithoutReset)
  | completes {v : Inputs} {rest : List Pins} (hp : s.Presents v rest) :
      StepCase s (.next (cycleResult { s with script := rest } v))

theorem StepCase.step_eq {s : State} {o : Host.Outcome State Fault Refusal} (h : StepCase s o) : step s = o := by
  cases h with
  | ended hs => simp only [step, hs]
  | nonBinary hs hv => simp only [step, hs, hv]
  | tooWide hs hv hf => simp [step, hs, hv, hf]
  | noReset hs hv hf hm => simp [step, hs, hv, hf, hm]
  | completes hp =>
    obtain ⟨pins, hs, hv, hf, hm⟩ := hp
    exact step_eq_cycleResult hs hv hf hm

/-- The conditions leave no state out. -/
theorem exists_stepCase (s : State) : ∃ o, StepCase s o := by
  cases hs : s.script with
  | nil => exact ⟨_, .ended hs⟩
  | cons pins rest =>
    cases hv : pins.sample with
    | none => exact ⟨_, .nonBinary hs hv⟩
    | some v =>
      cases hf : portFits s v with
      | false => exact ⟨_, .tooWide hs hv hf⟩
      | true =>
        cases hm : mayRun s v with
        | false => exact ⟨_, .noReset hs hv hf hm⟩
        | true => exact ⟨_, .completes ⟨pins, hs, hv, hf, hm⟩⟩

/-- A step answers `o` exactly under `o`'s condition. -/
theorem step_eq_iff {s : State} {o : Host.Outcome State Fault Refusal} : step s = o ↔ StepCase s o := by
  refine ⟨fun h => ?_, StepCase.step_eq⟩
  obtain ⟨o', ho'⟩ := exists_stepCase s
  rwa [← h, ho'.step_eq]

theorem completes_iff_presents (s : State) : s.Completes ↔ ∃ v rest, s.Presents v rest := by
  constructor
  · rintro ⟨t, ht⟩
    cases step_eq_iff.1 ht with
    | completes hp => exact ⟨_, _, hp⟩
  · rintro ⟨v, rest, hp⟩
    exact ⟨_, (StepCase.completes hp).step_eq⟩

/-- Settles O32: each answer has one case of `StepCase`, and a fault has none. -/
theorem stepRefusesOnlyWhatTheSpecRefuses : Obligations.StepRefusesOnlyWhatTheSpecRefuses := by
  intro s
  simp only [step_eq_iff, ← Pins.sample_eq_none_iff, ← portFits_iff, ← portFits_eq_false_iff, ← mayRun_eq_false_iff]
  refine ⟨⟨fun | .ended hs => hs, .ended⟩, ⟨fun | .nonBinary hs hv => ⟨_, _, hs, hv⟩, ?_⟩,
    ⟨fun | .tooWide hs hv hf => ⟨_, _, _, hs, hv, hf⟩, ?_⟩,
    ⟨fun | .noReset hs hv hf hm => ⟨_, _, _, hs, hv, hf, hm⟩, ?_⟩,
    completes_iff_presents s, fun f h => nomatch step_eq_iff.1 h⟩
  · rintro ⟨pins, rest, hs, hv⟩
    exact .nonBinary hs hv
  · rintro ⟨v, rest, pins, hs, hv, hf⟩
    exact .tooWide hs hv hf
  · rintro ⟨v, rest, pins, hs, hv, hf, hm⟩
    exact .noReset hs hv hf hm

/-! ### The start of a run -/

theorem startRun_of_configOk {c : Config} (h : configOk c = true) (vs : List Inputs) (s : State) :
    startRun c vs s = .next { s with cfg := ⟨c, h⟩, script := vs.map pinsOf, wasReset := false } := dif_pos h

/-- Settles O21. -/
theorem startRunRefusesBadConfiguration : Obligations.StartRunRefusesBadConfiguration := by
  intro c vs s
  refine ⟨?_, fun h => startRun_of_configOk h vs s⟩
  rw [← Bool.not_eq_true, ← startRun_ne_badConfiguration_iff c vs s, not_ne_iff]

/-! ### Where a cycle leads -/

/-- The six cycles from `s` that sample `v`: the operation that `v` and `gate_prev` select, the levels that select it,
and the state it leads to (R58). -/
inductive CycleTo (s : State) (v : Inputs) : State → Prop
  | reset (hop : decodeIn s v = .reset) (hrst : v.rst = true) : CycleTo s v (resetRegisters s)
  | idleLow (hop : decodeIn s v = .idleLow v.octSel) (hrst : v.rst = false) (hprev : s.gatePrev = false)
      (hgate : v.gate = false) : CycleTo s v (samplePorts false v.octSel (tick s))
  | riseValid (hop : decodeIn s v = .riseValid v.octSel v.cvCode) (hrst : v.rst = false) (hprev : s.gatePrev = false)
      (hgate : v.gate = true) (hcv : v.cvCode < topThreshold s.cfg) :
      CycleTo s v
        (samplePorts true v.octSel (enterSounding (program (lookup s.cfg s.octaveQ (floorNote s.cfg v.cvCode)) s)))
  | riseOor (hop : decodeIn s v = .riseOor v.octSel v.cvCode) (hrst : v.rst = false) (hprev : s.gatePrev = false)
      (hgate : v.gate = true) (hcv : topThreshold s.cfg ≤ v.cvCode) :
      CycleTo s v (samplePorts true v.octSel (enterSounding (raiseVoltageOutOfRange (tick s))))
  | fall (hop : decodeIn s v = .fall v.octSel) (hrst : v.rst = false) (hprev : s.gatePrev = true)
      (hgate : v.gate = false) : CycleTo s v (samplePorts false v.octSel (enterSilent (silence (clearError s))))
  | idleHigh (hop : decodeIn s v = .idleHigh v.octSel) (hrst : v.rst = false) (hprev : s.gatePrev = true)
      (hgate : v.gate = true) : CycleTo s v (samplePorts true v.octSel (tick s))

theorem cycleTo_cycleResult (s : State) (v : Inputs) : CycleTo s v (cycleResult s v) := by
  have hop : decodeIn s v = _ := decode_eq (topThreshold s.cfg) s.gatePrev v
  unfold cycleResult
  cases hrst : v.rst with
  | true => exact .reset (by simpa [hrst] using hop) hrst
  | false =>
    cases hprev : s.gatePrev <;> cases hgate : v.gate <;> simp only [hrst, hprev, hgate] at hop ⊢
    case false.false => exact .idleLow (by simpa using hop) hrst hprev hgate
    case false.true =>
      by_cases hcv : v.cvCode < topThreshold s.cfg
      · simpa [hcv] using .riseValid (by simpa [hcv] using hop) hrst hprev hgate hcv
      · simpa [hcv] using .riseOor (by simpa [hcv] using hop) hrst hprev hgate (Nat.not_lt.1 hcv)
    case true.false => exact .fall (by simpa using hop) hrst hprev hgate
    case true.true => exact .idleHigh (by simpa using hop) hrst hprev hgate

/-- A step that answers a next state took a cycle on one vector of the script. -/
theorem exists_cycleTo_of_step {s t : State} (h : step s = .next t) :
    ∃ v rest, s.Presents v rest ∧ CycleTo { s with script := rest } v t := by
  cases step_eq_iff.1 h with
  | completes hp => exact ⟨_, _, hp, cycleTo_cycleResult _ _⟩

/-- The same where the vector is known. -/
theorem State.Presents.cycleTo {s t : State} {v : Inputs} {rest : List Pins} (hp : s.Presents v rest)
    (h : step s = .next t) : CycleTo { s with script := rest } v t := by
  have heq := (StepCase.completes hp).step_eq.symm.trans h
  injection heq with heq
  exact heq ▸ cycleTo_cycleResult _ v

/-! ### What every cycle keeps -/

namespace CycleTo

variable {s t : State} {v : Inputs}

theorem cfg_eq (h : CycleTo s v t) : t.cfg = s.cfg := by cases h <;> rfl

theorem script_eq (h : CycleTo s v t) : t.script = s.script := by cases h <;> rfl

theorem wasReset_eq (h : CycleTo s v t) (hw : s.wasReset = true) : t.wasReset = true := by
  cases h with
  | reset => rfl
  | _ => exact hw

/-- Every non-reset cycle samples the two ports (R27, R106). -/
theorem ports_eq (h : CycleTo s v t) (hrst : v.rst = false) : t.octaveQ = v.octSel ∧ t.gatePrev = v.gate := by
  cases h with
  | reset _ hset => simp [hset] at hrst
  | _ => exact ⟨rfl, Eq.symm ‹v.gate = _›⟩

/-- What may change `period_reg` (R26). -/
theorem periodReg_eq_or (h : CycleTo s v t) :
    t.periodReg = s.periodReg ∨ decodeIn s v = .reset ∨ ∃ o cv, decodeIn s v = .riseValid o cv := by
  cases h with
  | reset hop => exact .inr (.inl hop)
  | riseValid hop => exact .inr (.inr ⟨_, _, hop⟩)
  | _ => exact .inl rfl

/-- What may change `duty_en` (R25). -/
theorem dutyEn_eq_or (h : CycleTo s v t) :
    t.dutyEn = s.dutyEn ∨ decodeIn s v = .reset ∨ (∃ o, decodeIn s v = .fall o) ∨
      ∃ o cv, decodeIn s v = .riseValid o cv := by
  cases h with
  | reset hop => exact .inr (.inl hop)
  | fall hop => exact .inr (.inr (.inl ⟨_, hop⟩))
  | riseValid hop => exact .inr (.inr (.inr ⟨_, _, hop⟩))
  | _ => exact .inl rfl

/-- A set error outlasts every cycle but FALL and RESET (R115). -/
theorem errFlag_of_not_fall (h : CycleTo s v t) (herr : s.errFlag = true) (hrst : v.rst = false)
    (hfall : s.gatePrev = true → v.gate = true) : t.errFlag = true := by
  cases h with
  | reset _ hset => simp [hset] at hrst
  | fall _ _ hprev hgate => simp [hfall hprev] at hgate
  | riseOor => rfl
  | _ => exact herr

end CycleTo

/-- Settles O43. -/
theorem stepKeepsBothRoms : Obligations.StepKeepsBothRoms := by
  intro s t h
  obtain ⟨v, rest, ⟨pins, hs, -⟩, hc⟩ := exists_cycleTo_of_step h
  have hcfg : t.cfg = s.cfg := hc.cfg_eq
  exact ⟨hcfg, fun i => by rw [hcfg], fun a => by rw [hcfg], pins, by rw [hs, hc.script_eq]⟩

/-- Settles O35. -/
theorem portsAreSampledEveryCycle : Obligations.PortsAreSampledEveryCycle :=
  fun _ _ _ _ hp hrst h => (hp.cycleTo h).ports_eq hrst

/-- Settles O40. -/
theorem onlyRiseFallResetProgram : Obligations.OnlyRiseFallResetProgram := fun _ _ _ _ hp h =>
  ⟨(hp.cycleTo h).periodReg_eq_or.resolve_left, (hp.cycleTo h).dutyEn_eq_or.resolve_left⟩

theorem noFallOrReset_cons (gatePrev : Bool) (v : Inputs) (vs : List Inputs) :
    noFallOrReset gatePrev (v :: vs) = true ↔
      v.rst = false ∧ (gatePrev = true → v.gate = true) ∧ noFallOrReset v.gate vs = true := by
  cases gatePrev with
  | false => simp [noFallOrReset]
  | true => simp [noFallOrReset, and_assoc]

/-- Settles O42, by induction on the cycles: each one keeps the error, the reset mark and the configuration, and leaves
`gate_prev` at the level from which `noFallOrReset` goes on. -/
theorem errorPersistsUntilFall : Obligations.ErrorPersistsUntilFall := by
  intro vs rest
  induction vs with
  | nil => exact fun s _ herr hs _ _ => ⟨s, rfl, herr, hs⟩
  | cons v vs ih =>
    intro s hw herr hs hfit hno
    obtain ⟨hrst, hfall, hno'⟩ := (noFallOrReset_cons _ v vs).1 hno
    obtain ⟨hfitv, hfit'⟩ := List.forall_mem_cons.1 hfit
    have hp : s.Presents v (vs.map pinsOf ++ rest) :=
      ⟨pinsOf v, hs, sample_pinsOf v, hfitv, mayRun_of_wasReset hw v⟩
    obtain ⟨u, hu⟩ := (completes_iff_presents s).2 ⟨v, _, hp⟩
    have hc := hp.cycleTo hu
    obtain ⟨t, hrun, ht⟩ := ih u (hc.wasReset_eq hw) (hc.errFlag_of_not_fall herr hrst hfall) hc.script_eq
      (by rw [hc.cfg_eq]; exact hfit') (by rw [(hc.ports_eq hrst).2]; exact hno')
    exact ⟨t, (runCycles_succ vs.length hu).trans hrun, ht⟩

/-! ### The invariants of R30 and R31 -/

/-- With the sampled gate low the block is SILENT (R30). -/
theorem State.gateAgrees.silent {s : State} (h : s.gateAgrees) (hprev : s.gatePrev = false) : s.state = .silent := by
  have hbit : s.state.bit = false := h.trans hprev
  cases hs : s.state with
  | silent => rfl
  | sounding => simp [hs, GateState.bit] at hbit

/-- Only a SOUNDING block has its divider running (R31). -/
theorem State.dividerConsistent.dutyEn_of_silent {s : State} (h : s.dividerConsistent) (hs : s.state = .silent) :
    s.dutyEn = false := by
  by_contra hd
  have hsounding := (h.2 (Bool.eq_true_of_not_eq_false hd)).1
  simp [hs] at hsounding

/-- Only a SOUNDING block has an error (R104). -/
theorem State.errorConsistent.errFlag_of_silent {s : State} (h : s.errorConsistent) (hs : s.state = .silent) :
    s.errFlag = false := by
  by_contra he
  have hsounding := (h (Bool.eq_true_of_not_eq_false he)).1
  simp [hs] at hsounding

/-- TICK keeps a silent divider at phase 0 and a running one inside its period (R96). -/
theorem State.dividerConsistent.tick {s : State} (h : s.dividerConsistent) : (tick s).dividerConsistent := by
  refine ⟨fun hd => ?_, fun hd => ?_⟩
  · rw [tick_dutyEn] at hd
    rw [tick_counter, hd, nextCounter_silent]
  · rw [tick_dutyEn] at hd
    obtain ⟨hs, hp, -⟩ := h.2 hd
    refine ⟨hs, hp, ?_⟩
    rw [tick_counter, hd, tick_periodReg]
    exact nextCounter_lt _ _ (by omega)

theorem resetRegisters_consistent (s : State) : (resetRegisters s).Consistent := fun _ =>
  ⟨rfl, ⟨fun _ => rfl, nofun⟩, nofun, .inl rfl⟩

/-- An IDLE cycle, at the level that `gate_prev` has already (R110). -/
theorem State.Consistent.idle {s : State} {g : Bool} (h : s.Consistent) (hprev : s.gatePrev = g) (o : Bool) :
    (samplePorts g o (tick s)).Consistent := by
  intro hw
  obtain ⟨hagree, hdiv, herr, hper⟩ := h hw
  exact ⟨hagree.trans hprev, hdiv.tick, herr, hper⟩

/-- Each of the six cycles keeps the invariant. A RISE comes with the gate low before it, so it finds the block SILENT,
with the divider and the error off: a valid one raises no error, and an out-of-range one leaves the divider off. -/
theorem CycleTo.consistent {s t : State} {v : Inputs} (h : CycleTo s v t) (hs : s.Consistent) : t.Consistent := by
  cases h with
  | reset => exact resetRegisters_consistent s
  | idleLow _ _ hprev => exact hs.idle hprev _
  | riseValid _ _ hprev _ hcv =>
    intro hw
    obtain ⟨hagree, -, herr, -⟩ := hs hw
    have hnoerr : s.errFlag = false := herr.errFlag_of_silent (hagree.silent hprev)
    have hperiod := (lookup_range s.cfg s.octaveQ (floorNote s.cfg v.cvCode)).1
    exact ⟨rfl, ⟨fun _ => rfl, fun _ => ⟨rfl, hperiod, Nat.lt_of_lt_of_le Nat.two_pos hperiod⟩⟩,
      fun he => absurd (hnoerr.symm.trans he) Bool.false_ne_true,
      .inr ⟨s.octaveQ, floorNote s.cfg v.cvCode, floorNote_le_59 hcv, romP_lookup _ _ _⟩⟩
  | riseOor _ _ hprev =>
    intro hw
    obtain ⟨hagree, hdiv, -, hper⟩ := hs hw
    have hoff : s.dutyEn = false := hdiv.dutyEn_of_silent (hagree.silent hprev)
    exact ⟨rfl, ⟨hdiv.tick.1, fun hd => absurd (hoff.symm.trans hd) Bool.false_ne_true⟩, fun _ => ⟨rfl, hoff⟩, hper⟩
  | fall =>
    intro hw
    obtain ⟨-, -, -, hper⟩ := hs hw
    exact ⟨rfl, ⟨fun _ => rfl, nofun⟩, nofun, hper⟩
  | idleHigh _ _ hprev => exact hs.idle hprev _

/-- Settles O45. -/
theorem stepKeepsConsistent : Obligations.StepKeepsConsistent := by
  intro s t hs h
  obtain ⟨v, rest, -, hc⟩ := exists_cycleTo_of_step h
  exact hc.consistent hs

/-! ### The register widths -/

theorem State.registersFit.tick {s : State} (h : s.registersFit) : (tick s).registersFit := by
  refine ⟨h.1, ?_⟩
  rw [tick_counter, tick_cfg]
  rcases nextCounter_zero_or_lt s.dutyEn s.periodReg s.counter with h0 | hlt
  · rw [h0]
    exact Nat.two_pow_pos _
  · exact hlt.trans h.1

theorem lookup_lt_two_pow (c : LegalConfig) (b : Bool) (n : Note) : lookup c b n < 2 ^ c.val.periodW :=
  Nat.lt_of_le_pred (Nat.two_pow_pos _) (lookup_range c b n).2

theorem resetRegisters_registersFit (s : State) : (resetRegisters s).registersFit :=
  ⟨Nat.two_pow_pos _, Nat.two_pow_pos _⟩

theorem CycleTo.registersFit {s t : State} {v : Inputs} (h : CycleTo s v t) (hs : s.registersFit) : t.registersFit := by
  cases h with
  | reset => exact resetRegisters_registersFit s
  | idleLow => exact hs.tick
  | riseValid => exact ⟨lookup_lt_two_pow _ _ _, Nat.two_pow_pos _⟩
  | riseOor => exact hs.tick
  | fall => exact ⟨hs.1, Nat.two_pow_pos _⟩
  | idleHigh => exact hs.tick

/-- Settles O46. -/
theorem stepKeepsRegisterWidths : Obligations.StepKeepsRegisterWidths := by
  intro s t hs h
  obtain ⟨v, rest, -, hc⟩ := exists_cycleTo_of_step h
  exact hc.registersFit hs

/-! ### Every run -/

/-- What holds along a run from any register values: before the first RESET nothing, and after it the invariants and the
register widths (R34). -/
def State.soundAfterReset (s : State) : Prop := s.Consistent ∧ (s.wasReset = true → s.registersFit)

/-- A cycle with `rst` set is a RESET, whatever the other levels are (R57). -/
theorem CycleTo.eq_resetRegisters {s t : State} {v : Inputs} (h : CycleTo s v t) (hrst : v.rst = true) :
    t = resetRegisters s := by
  cases h with
  | reset => rfl
  | _ => exact absurd ‹v.rst = false› (by simp [hrst])

theorem step_keeps_soundAfterReset (s t : State) (hs : s.soundAfterReset) (h : step s = .next t) :
    t.soundAfterReset := by
  obtain ⟨hcons, hfit⟩ := hs
  refine ⟨stepKeepsConsistent s t hcons h, fun _ => ?_⟩
  cases hw : s.wasReset with
  | true => exact stepKeepsRegisterWidths s t (hfit hw) h
  | false =>
    obtain ⟨v, rest, ⟨_, _, _, _, hm⟩, hc⟩ := exists_cycleTo_of_step h
    rw [hc.eq_resetRegisters (rst_of_mayRun hm hw)]
    exact resetRegisters_registersFit _

theorem startRun_wasReset {c : Config} {vs : List Inputs} {s s0 : State} (h : startRun c vs s = .next s0) :
    s0.wasReset = false := by
  unfold startRun at h
  split at h
  · injection h with h
    rw [← h]
  · cases h

/-- Settles O48: a run starts before its RESET, where nothing is asked, and every step keeps what is asked after it. -/
theorem everyRunIsConsistent : Obligations.EveryRunIsConsistent := by
  intro c vs s s0 t k hstart hrun hw
  have hpre : s0.wasReset ≠ true := by simp [startRun_wasReset hstart]
  have hsound : s0.soundAfterReset := ⟨fun h => absurd h hpre, fun h => absurd h hpre⟩
  obtain ⟨hcons, hfit⟩ := runCycles_induction State.soundAfterReset step_keeps_soundAfterReset k hsound hrun
  obtain ⟨hagree, ⟨hoff, hon⟩, -, -⟩ := hcons hw
  exact ⟨hagree, hoff, hon, hfit hw⟩

end Sys2Proof.Machine
end

section
/-! PROOFS. The statements of 20_memory.md: the address maps of the threshold ROM (R41) and of the period ROM (R44). -/

namespace Sys2Proof.Machine

/-! ### Which addresses hold a word -/

/-- The threshold ROM holds no word exactly at the reserved indexes 61..63 (R41). -/
theorem romT_eq_none_iff (c : LegalConfig) (i : ThreshIndex) : romT c i = none ↔ 61 ≤ i.toNat := by
  rw [romT, List.getElem?_eq_none_iff, legal_thresh_length]

/-- The note field of an address is its remainder by 64 (R43). -/
theorem toNat_noteField (addr : PeriodAddr) : (addr.extractLsb' 0 6).toNat = addr.toNat % 64 := by
  rw [BitVec.extractLsb'_toNat, Nat.shiftRight_zero]

/-- The period ROM holds no word exactly where the note field is one of 61..63, in either bank (R44). -/
theorem romP_eq_none_iff (c : LegalConfig) (addr : PeriodAddr) : romP c addr = none ↔ 61 ≤ addr.toNat % 64 := by
  rw [romP, List.getElem?_eq_none_iff, legal_rom_length, toNat_noteField]

/-- An address of seven bits has a reserved note field exactly in the last three words of its bank of 64 (R44). -/
theorem reservedNote_iff (addr : PeriodAddr) :
    61 ≤ addr.toNat % 64 ↔
      (0x3D ≤ addr.toNat ∧ addr.toNat ≤ 0x3F) ∨ (0x7D ≤ addr.toNat ∧ addr.toNat ≤ 0x7F) := by
  have hlt : addr.toNat < 128 := addr.isLt
  omega

/-! ### The address maps -/

/-- Settles O15: the address `{b, n}` is `periodAddr b n`, whose read cannot fail; each bank and the threshold ROM have 61
words. -/
theorem periodRomMap : Obligations.PeriodRomMap := by
  intro c
  refine ⟨fun b n hn => ?_, fun addr => ?_, fun i => ⟨fun hi => ⟨rfl, ?_⟩, (romT_eq_none_iff c i).2⟩⟩
  · have hread := romP_lookup c b ⟨n, Nat.lt_succ_of_le hn⟩
    exact ⟨_, hread, (romP_periodAddr c b _).symm.trans hread⟩
  · exact (romP_eq_none_iff c addr).trans (reservedNote_iff addr)
  · rw [Option.isSome_iff_ne_none, ne_eq, romT_eq_none_iff]
    omega

/-- Settles O14. -/
theorem thresholdRomMap : Obligations.ThresholdRomMap :=
  fun c i => ⟨rfl, romT_eq_none_iff c i, fun _ ht => legal_thresh_lt c ht⟩

end Sys2Proof.Machine
end

section
/-! PROOFS. The statements of 30_encoding.md: the decoder and its inverse (R58, R67), the inputs that a cycle ignores (R56,
R57), the presented table word (logs 13 and 14) and the stimulus statements (R65, R66). `DecodesTo` says once which operation
a cycle decodes to, and `Instr.inputs` with `Instr.gatePrev` which cycle an operation is encoded as. -/

namespace Sys2Proof

/-! ### Which operation a cycle decodes to -/

/-- The six rows of spec/opcode_table.json: the operation of a cycle that samples `v` after the level `gatePrev`, and the
levels and the side of `top` that select it (R58, R77). -/
inductive DecodesTo (top : Nat) (gatePrev : Bool) (v : Inputs) : Instr → Prop
  | reset (hrst : v.rst = true) : DecodesTo top gatePrev v .reset
  | idleLow (hrst : v.rst = false) (hprev : gatePrev = false) (hgate : v.gate = false) :
      DecodesTo top gatePrev v (.idleLow v.octSel)
  | riseValid (hrst : v.rst = false) (hprev : gatePrev = false) (hgate : v.gate = true) (hcv : v.cvCode < top) :
      DecodesTo top gatePrev v (.riseValid v.octSel v.cvCode)
  | riseOor (hrst : v.rst = false) (hprev : gatePrev = false) (hgate : v.gate = true) (hcv : top ≤ v.cvCode) :
      DecodesTo top gatePrev v (.riseOor v.octSel v.cvCode)
  | fall (hrst : v.rst = false) (hprev : gatePrev = true) (hgate : v.gate = false) :
      DecodesTo top gatePrev v (.fall v.octSel)
  | idleHigh (hrst : v.rst = false) (hprev : gatePrev = true) (hgate : v.gate = true) :
      DecodesTo top gatePrev v (.idleHigh v.octSel)

theorem DecodesTo.decode_eq {top : Nat} {gatePrev : Bool} {v : Inputs} {i : Instr} (h : DecodesTo top gatePrev v i) :
    decode top gatePrev v = i := by
  rw [Machine.decode_eq]
  cases h with
  | riseOor hrst hprev hgate hcv => simp [hrst, hprev, hgate, Nat.not_lt.2 hcv]
  | _ => simp [*]

/-- The rows leave no cycle out: R58 has no illegal operation word. -/
theorem exists_decodesTo (top : Nat) (gatePrev : Bool) (v : Inputs) : ∃ i, DecodesTo top gatePrev v i := by
  cases hrst : v.rst with
  | true => exact ⟨_, .reset hrst⟩
  | false =>
    cases hprev : gatePrev <;> cases hgate : v.gate
    case false.false => exact ⟨_, .idleLow hrst rfl hgate⟩
    case false.true =>
      rcases Nat.lt_or_ge v.cvCode top with hcv | hcv
      · exact ⟨_, .riseValid hrst rfl hgate hcv⟩
      · exact ⟨_, .riseOor hrst rfl hgate hcv⟩
    case true.false => exact ⟨_, .fall hrst rfl hgate⟩
    case true.true => exact ⟨_, .idleHigh hrst rfl hgate⟩

theorem decodesTo_decode (top : Nat) (gatePrev : Bool) (v : Inputs) :
    DecodesTo top gatePrev v (decode top gatePrev v) := by
  obtain ⟨i, hi⟩ := exists_decodesTo top gatePrev v
  rwa [hi.decode_eq]

theorem Inputs.fits_iff (w : Nat) (v : Inputs) : v.fits w = true ↔ v.cvCode < 2 ^ w := decide_eq_true_iff

namespace DecodesTo

variable {w top : Nat} {gatePrev : Bool} {v : Inputs} {i : Instr}

/-- The decoder makes well-formed operations only, from codes of the port (log 11). -/
theorem wellFormed (h : DecodesTo top gatePrev v i) (hfit : v.fits w = true) : i.wellFormed w top = true := by
  have hlt := (Inputs.fits_iff w v).1 hfit
  cases h with
  | riseValid _ _ _ hcv => simp [Instr.wellFormed, hlt, hcv]
  | riseOor _ _ _ hcv => simp [Instr.wellFormed, hlt, hcv]
  | _ => rfl

/-- The event of the operation is that of the operation word (R58). -/
theorem event_eq (h : DecodesTo top gatePrev v i) : i.event = decodeOp (opWord v.rst gatePrev v.gate) := by
  rw [decodeOp_opWord]
  cases h <;> simp [Instr.event, *]

/-- Only a RISE reads the sample (R56, R73). -/
theorem of_not_rise (h : DecodesTo top gatePrev v i) (hno : ¬(v.rst = false ∧ gatePrev = false ∧ v.gate = true))
    (cv : Nat) : DecodesTo top gatePrev { v with cvCode := cv } i := by
  cases h with
  | reset hrst => exact .reset hrst
  | idleLow hrst hprev hgate => exact .idleLow (v := { v with cvCode := cv }) hrst hprev hgate
  | riseValid hrst hprev hgate => exact absurd ⟨hrst, hprev, hgate⟩ hno
  | riseOor hrst hprev hgate => exact absurd ⟨hrst, hprev, hgate⟩ hno
  | fall hrst hprev hgate => exact .fall (v := { v with cvCode := cv }) hrst hprev hgate
  | idleHigh hrst hprev hgate => exact .idleHigh (v := { v with cvCode := cv }) hrst hprev hgate

end DecodesTo

/-! ### Which cycle an operation is encoded as -/

/-- The inputs that the encoder records for an operation, the ignored ones as 0 (log 15). -/
def Instr.inputs : Instr → Inputs
  | .reset => ⟨true, false, false, 0⟩
  | .idleLow o => ⟨false, false, o, 0⟩
  | .riseValid o cv => ⟨false, true, o, cv⟩
  | .riseOor o cv => ⟨false, true, o, cv⟩
  | .fall o => ⟨false, false, o, 0⟩
  | .idleHigh o => ⟨false, true, o, 0⟩

/-- The `gate_prev` bit that the encoder records for an operation: the gate was high before a FALL and an IDLE_HIGH. -/
def Instr.gatePrev : Instr → Bool
  | .fall _ | .idleHigh _ => true
  | _ => false

theorem encode_eq (w : Nat) (i : Instr) : encode w i = ⟨i.gatePrev, inputVector w i.inputs⟩ := by cases i <;> rfl

/-- A well-formed operation is recorded with a code of the port. -/
theorem Instr.inputs_fits {w top : Nat} {i : Instr} (h : i.wellFormed w top = true) : i.inputs.fits w = true := by
  rw [Inputs.fits_iff]
  cases i with
  | riseValid o cv =>
    simp only [wellFormed, Bool.and_eq_true, decide_eq_true_eq] at h
    exact h.1
  | riseOor o cv =>
    simp only [wellFormed, Bool.and_eq_true, decide_eq_true_eq] at h
    exact h.1
  | _ => exact Nat.two_pow_pos w

/-- The cycle that a well-formed operation is recorded as is one of its own row of the table. -/
theorem decodesTo_of_wellFormed {w top : Nat} {i : Instr} (h : i.wellFormed w top = true) :
    DecodesTo top i.gatePrev i.inputs i := by
  cases i with
  | reset => exact .reset rfl
  | idleLow o => exact .idleLow (v := (Instr.idleLow o).inputs) rfl rfl rfl
  | riseValid o cv =>
    simp only [Instr.wellFormed, Bool.and_eq_true, decide_eq_true_eq] at h
    exact .riseValid (v := (Instr.riseValid o cv).inputs) rfl rfl rfl h.2
  | riseOor o cv =>
    simp only [Instr.wellFormed, Bool.and_eq_true, decide_eq_true_eq] at h
    exact .riseOor (v := (Instr.riseOor o cv).inputs) rfl rfl rfl h.2
  | fall o => exact .fall (v := (Instr.fall o).inputs) rfl rfl rfl
  | idleHigh o => exact .idleHigh (v := (Instr.idleHigh o).inputs) rfl rfl rfl

/-- Settles O55: the vector gives its inputs back, since their code fits the port, and those inputs are of the operation's
own row. -/
theorem decodeEncodeRoundTrip : Obligations.DecodeEncodeRoundTrip := by
  intro w top i hwf
  rw [encode_eq, CycleWord.decode, vectorInputs_inputVector (Instr.inputs_fits hwf)]
  exact (decodesTo_of_wellFormed hwf).decode_eq

namespace DecodesTo

variable {top : Nat} {gatePrev : Bool} {v : Inputs} {i : Instr}

theorem inputs_rst (h : DecodesTo top gatePrev v i) : i.inputs.rst = v.rst := by
  cases h <;> exact Eq.symm ‹v.rst = _›

/-- Outside a RESET, `gate_prev`, `gate` and `oct_sel` are recorded as they were. -/
theorem recorded_levels (h : DecodesTo top gatePrev v i) (hrst : v.rst = false) :
    i.gatePrev = gatePrev ∧ i.inputs.gate = v.gate ∧ i.inputs.octSel = v.octSel := by
  cases h with
  | reset hset => simp [hset] at hrst
  | _ => exact ⟨Eq.symm ‹gatePrev = _›, Eq.symm ‹v.gate = _›, rfl⟩

/-- Every input of a RISE is recorded. -/
theorem inputs_of_rise (h : DecodesTo top gatePrev v i) (hrst : v.rst = false) (hprev : gatePrev = false)
    (hgate : v.gate = true) : i.inputs = v := by
  obtain ⟨r, g, o, cv⟩ := v
  obtain ⟨rfl, rfl, rfl⟩ : r = false ∧ gatePrev = false ∧ g = true := ⟨hrst, hprev, hgate⟩
  cases h with
  | riseValid => rfl
  | riseOor => rfl
  | reset hset => exact nomatch hset
  | idleLow _ _ hlow => exact nomatch hlow
  | fall _ hhigh => exact nomatch hhigh
  | idleHigh _ hhigh => exact nomatch hhigh

end DecodesTo

/-- Settles O56: what `DecodesTo` says of the recorded cycle, read off the vector that carries it. -/
theorem encodeDecodeKeepsReadBits : Obligations.EncodeDecodeKeepsReadBits := by
  rintro w top ⟨gatePrev, x⟩
  have h : DecodesTo top gatePrev (vectorInputs x) (CycleWord.decode top ⟨gatePrev, x⟩) := decodesTo_decode _ _ _
  rw [encode_eq, vectorInputs_rst, vectorInputs_gate, vectorInputs_octSel]
  refine ⟨h.wellFormed (vectorInputs_fits x), h.inputs_rst, fun hrst => ?_⟩
  obtain ⟨hprev, hgate, hoct⟩ := h.recorded_levels hrst
  refine ⟨hprev, hgate, hoct, fun hlow hhigh => ?_⟩
  rw [hprev, h.inputs_of_rise hrst hlow hhigh, inputVector_vectorInputs]

/-! ### The operation word and the input vector -/

theorem opWord_toNat (r p g : Bool) : (opWord r p g).toNat = 4 * r.toNat + 2 * p.toNat + g.toNat := by
  cases r <;> cases p <;> cases g <;> rfl

theorem decodeOp_opWord_eq_rise_iff (r p g : Bool) :
    decodeOp (opWord r p g) = .rise ↔ r = false ∧ p = false ∧ g = true := by
  rw [decodeOp_opWord]
  cases r <;> cases p <;> cases g <;> simp

/-- The values with the top bit, which is `rst`, are RESET (R58). -/
theorem decodeOp_of_le {op : OpWord} (h : 0b100#3 ≤ op) : decodeOp op = .reset := by
  have hrst : op.getLsbD 2 = true := by revert op; decide
  simp only [decodeOp, hrst]

/-- Settles O52. -/
theorem operationWordSelectsEvent : Obligations.OperationWordSelectsEvent := by
  refine ⟨opWord_toNat, rfl, rfl, rfl, rfl, fun _ => decodeOp_of_le, fun top gatePrev v => ?_⟩
  refine ⟨(decodesTo_decode top gatePrev v).event_eq, fun hrise => ?_⟩
  obtain ⟨hrst, hprev, hgate⟩ := (decodeOp_opWord_eq_rise_iff _ _ _).1 hrise
  exact ⟨fun hcv => (DecodesTo.riseOor hrst hprev hgate hcv).decode_eq,
    fun hcv => (DecodesTo.riseValid hrst hprev hgate hcv).decode_eq⟩

/-- A bit put above a word counts with the weight of its place. -/
theorem toNat_ofBool_append {n : Nat} (b : Bool) (x : BitVec n) :
    (BitVec.ofBool b ++ x).toNat = b.toNat * 2 ^ n + x.toNat := by
  rw [BitVec.toNat_append, BitVec.toNat_ofBool, ← Nat.shiftLeft_add_eq_or_of_lt x.isLt, Nat.shiftLeft_eq]

/-- The weights of the inputs in the vector (R67). -/
theorem inputVector_toNat {w : Nat} {v : Inputs} (h : v.fits w = true) :
    (inputVector w v).toNat =
      v.rst.toNat * 2 ^ (w + 2) + v.gate.toNat * 2 ^ (w + 1) + v.octSel.toNat * 2 ^ w + v.cvCode := by
  rw [inputVector, BitVec.toNat_cast, toNat_ofBool_append, toNat_ofBool_append, toNat_ofBool_append, BitVec.toNat_ofNat,
    Nat.mod_eq_of_lt ((Inputs.fits_iff w v).1 h), show 1 + (1 + w) = w + 2 by omega, Nat.add_comm 1 w]
  omega

/-- Settles O53. -/
theorem inputVectorLayout : Obligations.InputVectorLayout :=
  ⟨fun _ _ h => ⟨inputVector_toNat h, vectorInputs_inputVector h⟩,
    fun _ x => ⟨vectorInputs_fits x, inputVector_vectorInputs x⟩, fun _ => ⟨rfl, rfl, rfl, rfl⟩, by decide, by decide⟩

/-- Settles O54: the seven words, run through the decoder. -/
theorem specWordsDecode : Obligations.SpecWordsDecode := by
  unfold Obligations.SpecWordsDecode
  decide

end Sys2Proof

namespace Sys2Proof.Machine

/-! ### What a step runs, and what it ignores -/

theorem eq_topThreshold {c : LegalConfig} {t : Nat} (h : romT c 60#6 = some t) : t = topThreshold c :=
  Option.some.inj (h.symm.trans (romT_top c))

/-- Settles O6. -/
theorem mismatchedRiseRefused : Obligations.MismatchedRiseRefused := by
  intro s o cv t ht
  obtain rfl := eq_topThreshold ht
  rw [exec_riseValid, exec_riseOor]
  rcases Nat.lt_or_ge cv (topThreshold s.cfg) with hcv | hcv
  · simp [hcv, Nat.not_le.2 hcv]
  · simp [hcv, Nat.not_lt.2 hcv]

/-- Settles O31. -/
theorem stepRunsDecodedOperation : Obligations.StepRunsDecodedOperation := by
  rintro s v rest top ⟨pins, hs, hv, hfit, hrun⟩ htop
  obtain rfl := eq_topThreshold htop
  exact ⟨step_of_sample hs hv hfit hrun, (decodesTo_decode _ _ v).wellFormed hfit⟩

/-- Settles O34: `rst` lets the cycle run even before the first reset, and selects RESET. -/
theorem resetOverridesEveryEvent : Obligations.ResetOverridesEveryEvent := by
  intro s v rest hs hfit hrst
  have hrun : mayRun s v = true := by simp [mayRun, hrst]
  rw [step_of_sample hs (sample_pinsOf v) hfit hrun, decodeIn, (DecodesTo.reset hrst).decode_eq, exec_reset]
  rfl

/-- The step on a presented code of the port, in a run that may or may not take it. -/
theorem step_pinsOf_cons (s : State) {v : Inputs} (rest : List Pins) (hcv : v.cvCode < 2 ^ s.cfg.val.sampleW) :
    step { s with script := pinsOf v :: rest } =
      if mayRun s v then exec (decodeIn s v) { s with script := rest } else .refused .runWithoutReset := by
  have hfit : portFits { s with script := pinsOf v :: rest } v = true := (portFits_iff _ v).2 hcv
  simp only [step, sample_pinsOf, hfit, if_true]
  rfl

/-- Settles O39: outside a RISE the operation is the same for both codes, and so is whether the run may take it. -/
theorem sampleIgnoredOutsideRise : Obligations.SampleIgnoredOutsideRise := by
  intro s r g o cv cv' rest hno hcv hcv'
  have hop : decodeIn s ⟨r, g, o, cv'⟩ = decodeIn s ⟨r, g, o, cv⟩ :=
    ((decodesTo_decode _ _ ⟨r, g, o, cv⟩).of_not_rise hno cv').decode_eq
  rw [step_pinsOf_cons s rest hcv, step_pinsOf_cons s rest hcv', hop]
  rfl

/-! ### The presented table word -/

/-- A default table under the default width and reference voltage has the top threshold of R7(c). -/
theorem topThreshold_eq_defaultTop {c : LegalConfig} (hmark : c.val.isDefault = true) (hwidth : c.val.sampleW = 16)
    (hvref : c.val.vref.value = 3.3) : topThreshold c = Config.defaultTop := by
  obtain ⟨-, -, htop, htrip, -⟩ := legal_checks c
  obtain ⟨hpin, -, -⟩ := (threshPinsOk_iff c.val).1 ⟨htop, htrip⟩ hmark hwidth hvref
  exact (eq_topThreshold hpin).symm

theorem decodeTableWord_eq_some_iff (nbits w : Nat) (i : Instr) :
    decodeTableWord nbits w = some i ↔
      (tableInputs w).fits 16 = true ∧ decode Config.defaultTop (tableGatePrev w) (tableInputs w) = i := by
  rw [decodeTableWord, Option.ite_none_right_eq_some, Option.some_inj]
  exact Iff.rfl

/-- Settles O57: the presented word is the cycle that `decodeTableWord` reads, under the same width and top threshold. -/
theorem tableWordRunsNext : Obligations.TableWordRunsNext := by
  intro s nbits w i hmark hwidth hvref hword
  obtain ⟨hfit, hop⟩ := (decodeTableWord_eq_some_iff nbits w i).1 hword
  have hport : portFits (presentTableWord s w) (tableInputs w) = true := by
    rw [portFits, presentTableWord_cfg, hwidth]
    exact hfit
  rw [State.withFetchWord,
    step_of_sample (presentTableWord_script s w) (sample_pinsOf _) hport (mayRun_of_wasReset rfl _), decodeIn,
    presentTableWord_cfg, presentTableWord_gatePrev, topThreshold_eq_defaultTop hmark hwidth hvref, hop]
  rfl

/-! ### What the stimulus statements expand to -/

theorem oneCycle_of_fits {w : Nat} {v : Inputs} (h : v.fits w = true) : oneCycle w v = some [v] := if_pos h

theorem oneCycle_of_le {w : Nat} {v : Inputs} (h : 2 ^ w ≤ v.cvCode) : oneCycle w v = none :=
  if_neg fun hfit => Nat.not_lt.2 h ((Inputs.fits_iff w v).1 hfit)

/-- A cycle that a statement expands to is the cycle it names. -/
theorem eq_of_oneCycle_eq {w : Nat} {v u : Inputs} (h : oneCycle w v = some [u]) : u = v := by
  unfold oneCycle at h
  split at h
  · simpa using h.symm
  · cases h

/-- `WAIT n` repeats the inputs of the cycle before it, `rst` low (R65). -/
theorem cycles_wait {n : Nat} (w : Nat) (v : Inputs) (hn : 1 ≤ n) :
    Stmt.cycles w (some v) (.wait n) = some (List.replicate n { v with rst := false }) :=
  if_neg (Nat.one_le_iff_ne_zero.1 hn)

/-- Settles O59. -/
theorem statementsExpandToCycles : Obligations.StatementsExpandToCycles := by
  intro w prev v g o cv n hfit
  refine ⟨rfl, fun hcv => oneCycle_of_fits ?_, fun hcv => oneCycle_of_le hcv, rfl, ?_, ?_, rfl, rfl, fun top u hu => ?_,
    fun hn => ⟨_, cycles_wait w v hn, List.length_replicate, fun u hu => List.eq_of_mem_replicate hu⟩⟩
  · exact (Inputs.fits_iff w _).2 (Nat.lt_of_le_pred (Nat.two_pow_pos w) hcv)
  · exact (oneCycle_of_fits (v := ⟨false, false, v.octSel, v.cvCode⟩) hfit).symm
  · exact (oneCycle_of_fits (v := ⟨false, v.gate, o, v.cvCode⟩) hfit).symm
  · obtain rfl : u = ⟨false, true, o, cv⟩ := eq_of_oneCycle_eq hu
    exact (DecodesTo.idleHigh (v := ⟨false, true, o, cv⟩) rfl rfl rfl).decode_eq

end Sys2Proof.Machine
end

section
/-! PROOFS. The statements of 40_voltage_quantizer.md: what the search answers (R74 to R79, R82), the comparator bank (R75),
and the seam of the two frequency banks (R91). -/

namespace Sys2Proof.Machine

/-! ### Which samples give a note of at least `i` -/

/-- The fact the whole section turns on (R74): from index 1 on, a note reaches `i` exactly if the sample reaches
`THRESH[i]`. At index 0 the clamp of R78 makes it false. -/
theorem le_floorNote_iff {c : LegalConfig} {s i t : Nat} (hi : 1 ≤ i) (ht : c.val.thresh[i]? = some t) :
    i ≤ (floorNote c s).val ↔ t ≤ s := by
  obtain ⟨hown, hnext⟩ := floorNote_spec c s
  constructor
  · intro hle
    obtain ⟨u, hu⟩ := legal_thresh_get c (Nat.le_of_lt_succ (floorNote c s).isLt)
    calc t ≤ u := legal_thresh_le c hle ht hu
      _ ≤ s := hown u (Nat.lt_of_lt_of_le hi hle) hu
  · intro hts
    by_contra hlt
    have hbound := legal_thresh_length c
    obtain ⟨hi61, -⟩ := List.getElem?_eq_some_iff.1 ht
    obtain ⟨u, hu⟩ := legal_thresh_get c (i := (floorNote c s).val + 1) (by omega)
    have hus : u ≤ s := Nat.le_trans (legal_thresh_le c (by omega) hu ht) hts
    exact Nat.not_lt.2 hus (hnext u hu)

/-- The note is 0 exactly below `THRESH[1]`. -/
theorem floorNote_eq_zero_iff {c : LegalConfig} {s t : Nat} (ht : c.val.thresh[1]? = some t) :
    floorNote c s = 0 ↔ s < t := by
  rw [← Nat.not_le, ← le_floorNote_iff (Nat.le_refl 1) ht, Nat.not_le, Nat.lt_one_iff, Fin.ext_iff]
  rfl

/-- The search's note rises with the sample, beyond the top threshold as well. -/
theorem floorNote_mono (c : LegalConfig) {s₁ s₂ : Nat} (h : s₁ ≤ s₂) : floorNote c s₁ ≤ floorNote c s₂ := by
  rcases Nat.eq_zero_or_pos (floorNote c s₁).val with hzero | hpos
  · exact Fin.le_def.2 (hzero ▸ Nat.zero_le _)
  · obtain ⟨t, ht⟩ := legal_thresh_get c (Nat.le_of_lt_succ (floorNote c s₁).isLt)
    have hts : t ≤ s₁ := (le_floorNote_iff hpos ht).1 (Nat.le_refl _)
    exact (le_floorNote_iff hpos ht).2 (Nat.le_trans hts h)

/-! ### The result of QUANTIZE -/

theorem quantize_oor_iff (c : LegalConfig) (s : Nat) : (quantize c s).oor = true ↔ topThreshold c ≤ s := by
  rw [quantize_oor, decide_eq_true_iff]

theorem quantize_oor_eq_false_iff (c : LegalConfig) (s : Nat) : (quantize c s).oor = false ↔ s < topThreshold c := by
  rw [quantize_oor, decide_eq_false_iff_not, Nat.not_le]

theorem quantize_note_of_lt {c : LegalConfig} {s : Nat} (h : s < topThreshold c) :
    (quantize c s).note = floorNote c s := by rw [quantize_of_lt h]

/-- No sample, in range or not, gives a note above 59 (R76, R77). -/
theorem quantize_note_le_59 (c : LegalConfig) (s : Nat) : (quantize c s).note.val ≤ 59 := by
  rcases Nat.lt_or_ge s (topThreshold c) with h | h
  · rw [quantize_note_of_lt h]
    exact floorNote_le_59 h
  · rw [quantize_of_le h]
    exact Nat.zero_le 59

/-- The result `(0, 0)` is that of exactly the samples below `THRESH[1]`, all of which are in range (R78). -/
theorem quantize_eq_zero_iff {c : LegalConfig} {s t : Nat} (ht : c.val.thresh[1]? = some t) :
    quantize c s = ⟨false, 0⟩ ↔ s < t := by
  have htop : t ≤ topThreshold c := legal_thresh_le c (by decide) ht (thresh_top c)
  constructor
  · intro h
    have hlt : s < topThreshold c := (quantize_oor_eq_false_iff c s).1 (by rw [h])
    exact (floorNote_eq_zero_iff ht).1 (by rw [← quantize_note_of_lt hlt, h])
  · intro h
    rw [quantize_of_lt (Nat.lt_of_lt_of_le h htop), (floorNote_eq_zero_iff ht).2 h]

/-- Settles O7: the index is the one `firstAbove` finds. -/
theorem quantizeFindsSmallestThresholdAbove : Obligations.QuantizeFindsSmallestThresholdAbove := by
  intro c s top htop
  obtain rfl := eq_topThreshold htop
  refine ⟨quantize_of_le, fun hlt => ?_⟩
  have hi := firstAbove_le_60 hlt
  obtain ⟨hbefore, hat⟩ := firstAbove_spec s c.val.thresh
  obtain ⟨t, ht⟩ := legal_thresh_get c hi
  refine ⟨firstAbove s c.val.thresh, t, hi, (romT_ofNat c (by omega)).trans ht, hat t ht, fun j u hj hu => ?_,
    (quantize_oor_eq_false_iff c s).2 hlt, by rw [quantize_note_of_lt hlt]; rfl⟩
  exact hbefore j u hj ((romT_ofNat c (by omega)).symm.trans hu)

/-- Settles O9. -/
theorem noteIsAtMost59 : Obligations.NoteIsAtMost59 := by
  intro c s t59 t60 h59 h60
  obtain rfl := eq_topThreshold h60
  have hmax := quantize_note_le_59 c s
  refine ⟨fun _ => hmax, by omega, ?_⟩
  rw [quantize_oor_eq_false_iff, and_comm (a := t59 ≤ s)]
  refine and_congr_right fun hlt => ?_
  rw [← le_floorNote_iff (i := 59) (by decide) h59, ← quantize_note_of_lt hlt]
  omega

/-- A code of 16 bits is at or above the default top threshold exactly if it represents at least 3.204 V: that is the
code of 3.204 V under R11. -/
theorem defaultTop_le_iff (s : Nat) : Config.defaultTop ≤ s ↔ (3.204 : ℚ) ≤ (s : ℚ) * 3.3 / 65535 := by
  have hcode : thresholdCode 16 Config.defaultVref ⟨3204, 1000⟩ = Config.defaultTop := by decide
  have hvref : Config.defaultVref.value = 3.3 := by norm_num [Config.defaultVref, Ratio.value]
  have hvolts : (⟨3204, 1000⟩ : Ratio).value = 3.204 := by norm_num [Ratio.value]
  have hspan : (2 : ℚ) ^ 16 - 1 = 65535 := by norm_num
  rw [← not_lt, ← hcode, lt_thresholdCode_iff (by decide) (by decide) (by decide), not_lt, hvref, hvolts, hspan]

/-- Settles O10. -/
theorem outOfRangeAtTopThreshold : Obligations.OutOfRangeAtTopThreshold := by
  intro c s top htop
  obtain rfl := eq_topThreshold htop
  refine ⟨quantize_oor_iff c s, fun hoor => ?_, fun hmark hwidth hvref => ?_⟩
  · rw [quantize_of_le ((quantize_oor_iff c s).1 hoor)]
  · rw [quantize_oor_iff, topThreshold_eq_defaultTop hmark hwidth hvref]
    exact ⟨Iff.rfl, defaultTop_le_iff s⟩

/-- Settles O11. -/
theorem noteZeroBelowSecondThreshold : Obligations.NoteZeroBelowSecondThreshold := by
  intro c s t0 t1 h0 h1
  have h01 : t0 ≤ t1 := legal_thresh_le c (Nat.zero_le 1) h0 h1
  exact ⟨fun hs => (quantize_eq_zero_iff h1).2 (Nat.lt_of_lt_of_le hs h01), (quantize_eq_zero_iff h1).symm⟩

/-- Settles O12. -/
theorem quantizeIsMonotone : Obligations.QuantizeIsMonotone := by
  intro c s1 s2 top htop h12 h2
  obtain rfl := eq_topThreshold htop
  rw [quantize_note_of_lt (Nat.lt_trans h12 h2), quantize_note_of_lt h2]
  exact floorNote_mono c (Nat.le_of_lt h12)

/-- Settles O13: each corner compares the note with one index through `le_floorNote_iff`, and equal thresholds are
reached together. -/
theorem thresholdEqualityCorners : Obligations.ThresholdEqualityCorners := by
  intro c s top htop
  obtain rfl := eq_topThreshold htop
  refine ⟨fun i hi hs hlt => ?_, fun hs => (quantize_oor_iff c s).2 hs.ge, fun j k t hj hjk hk htj htk hlt => ?_,
    fun h59 hlt h => ?_⟩
  · rw [quantize_note_of_lt hlt]
    rcases Nat.eq_zero_or_pos i with rfl | hpos
    · exact Nat.zero_le _
    · exact (le_floorNote_iff hpos ((romT_ofNat c (by omega)).symm.trans hs)).2 (Nat.le_refl s)
  · rw [romT_ofNat c (by omega)] at htj htk
    rw [quantize_note_of_lt hlt, ← Nat.not_le, le_floorNote_iff hj htj, le_floorNote_iff (by omega) htk]
    exact ⟨(em (t ≤ s)).symm, id⟩
  · rw [quantize_note_of_lt hlt] at h
    exact Nat.not_le.2 hlt ((le_floorNote_iff (by decide) h59).1 h.ge)

/-! ### The comparator bank -/

/-- Comparator `i` is set exactly if `THRESH[i]` stands at or below the sample (R75). -/
theorem comparators_getElem?_eq_true_iff (c : LegalConfig) (s i : Nat) :
    (comparators c s)[i]? = some true ↔ ∃ t, c.val.thresh[i]? = some t ∧ t ≤ s := by
  simp [comparators, Option.map_eq_some_iff]

/-- Everything the priority encoder says of its answer: every set bit stands at or below it, and the bit at it is set. -/
theorem highestSet_spec (l : List Bool) :
    (∀ j, l[j]? = some true → ∃ i, highestSet l = some i ∧ j ≤ i) ∧
      (∀ i, highestSet l = some i → l[i]? = some true) := by
  induction l with
  | nil => simp [highestSet]
  | cons b rest ih =>
    obtain ⟨ihabove, ihset⟩ := ih
    cases hrest : highestSet rest with
    | some k =>
      have hb : highestSet (b :: rest) = some (k + 1) := by rw [highestSet, hrest]
      refine ⟨fun j hj => ⟨k + 1, hb, ?_⟩, fun i hi => ?_⟩
      · cases j with
        | zero => exact Nat.zero_le _
        | succ j =>
          obtain ⟨i, hi, hji⟩ := ihabove j hj
          obtain rfl : k = i := Option.some.inj (hrest.symm.trans hi)
          exact Nat.succ_le_succ hji
      · obtain rfl : k + 1 = i := Option.some.inj (hb.symm.trans hi)
        exact ihset k hrest
    | none =>
      have hb : highestSet (b :: rest) = if b then some 0 else none := by rw [highestSet, hrest]
      refine ⟨fun j hj => ?_, fun i hi => ?_⟩
      · cases j with
        | zero =>
          obtain rfl : b = true := Option.some.inj hj
          exact ⟨0, hb, Nat.le_refl 0⟩
        | succ j =>
          obtain ⟨i, hi, -⟩ := ihabove j hj
          exact absurd (hrest.symm.trans hi) (by simp)
      · cases b with
        | true =>
          obtain rfl : 0 = i := Option.some.inj (hb.symm.trans hi)
          rfl
        | false => exact absurd (hb.symm.trans hi) (by simp)

/-- A comparator below a set one is set, because the thresholds do not fall (R75). -/
theorem comparators_thermometer (c : LegalConfig) (s : Nat) {i j : Nat} (hij : i ≤ j)
    (hj : (comparators c s)[j]? = some true) : (comparators c s)[i]? = some true := by
  rw [comparators_getElem?_eq_true_iff] at hj ⊢
  obtain ⟨t, ht, hts⟩ := hj
  obtain ⟨hj61, -⟩ := List.getElem?_eq_some_iff.1 ht
  have hlen := legal_thresh_length c
  obtain ⟨u, hu⟩ := legal_thresh_get c (i := i) (by omega)
  exact ⟨u, hu, Nat.le_trans (legal_thresh_le c hij hu ht) hts⟩

/-- From index 1 on, an encoder input is set exactly if the search's note reaches its index. -/
theorem encoderInput_eq_true_iff {c : LegalConfig} {s i : Nat} (hlt : s < topThreshold c) (hi : 1 ≤ i) :
    ((comparators c s).take 60)[i]? = some true ↔ i ≤ (floorNote c s).val := by
  have hmax := floorNote_le_59 hlt
  by_cases h60 : i < 60
  · obtain ⟨t, ht⟩ := legal_thresh_get c (Nat.le_of_lt h60)
    rw [List.getElem?_take_of_lt h60, comparators_getElem?_eq_true_iff, le_floorNote_iff hi ht, ht]
    simp
  · rw [List.getElem?_eq_none (by rw [List.length_take]; omega)]
    exact iff_of_false (by simp) (by omega)

/-- In range, the priority encoder's answer is the search's note: each is at or below the other. -/
theorem highestSet_comparators {c : LegalConfig} {s : Nat} (hlt : s < topThreshold c) :
    (highestSet ((comparators c s).take 60)).getD 0 = (floorNote c s).val := by
  obtain ⟨habove, hset⟩ := highestSet_spec ((comparators c s).take 60)
  apply Nat.le_antisymm
  · cases henc : highestSet ((comparators c s).take 60) with
    | none => exact Nat.zero_le _
    | some i =>
      rcases Nat.eq_zero_or_pos i with rfl | hpos
      · exact Nat.zero_le _
      · exact (encoderInput_eq_true_iff hlt hpos).1 (hset i henc)
  · rcases Nat.eq_zero_or_pos (floorNote c s).val with hzero | hpos
    · exact hzero.le.trans (Nat.zero_le _)
    · obtain ⟨i, henc, hle⟩ := habove _ ((encoderInput_eq_true_iff hlt hpos).2 (Nat.le_refl _))
      rw [henc]
      exact hle

/-- The last comparator is the out-of-range output (R75, R77). -/
theorem comparators_top (c : LegalConfig) (s : Nat) : (comparators c s)[60]? = some (quantize c s).oor := by
  rw [comparators, List.getElem?_map, thresh_top, quantize_oor]
  rfl

/-- Settles O8. -/
theorem comparatorBankEqualsSearch : Obligations.ComparatorBankEqualsSearch := by
  refine fun c s => ⟨fun i j hij hj => comparators_thermometer c s hij hj, ?_⟩
  rw [quantizeBank, comparators_top, Option.getD_some]
  rcases Nat.lt_or_ge s (topThreshold c) with hlt | hle
  · rw [quantize_of_lt hlt, highestSet_comparators hlt]
    rfl
  · rw [quantize_of_le hle]
    rfl

/-! ### The seam of the two banks -/

/-- The period of R89 as the rounded quotient of the values: equal frequencies have equal periods, however they are
written. A zero denominator or numerator makes both sides 0. -/
theorem periodOf_eq_floor (fClk f : Ratio) : (periodOf fClk f : ℤ) = ⌊fClk.value / f.value + 1 / 2⌋ := by
  have hquot : fClk.value / f.value = (fClk.num * f.den : ℚ) / (fClk.den * f.num : ℚ) := by
    rw [Ratio.value, Ratio.value, div_div_div_eq]
  by_cases hzero : fClk.den * f.num = 0
  · have hzero' : (fClk.den * f.num : ℚ) = 0 := by exact_mod_cast hzero
    rw [hquot, hzero', periodOf, mul_assoc 2 fClk.den, hzero]
    norm_num
  · have hne : (fClk.den * f.num : ℚ) ≠ 0 := by exact_mod_cast hzero
    have hsum : fClk.value / f.value + 1 / 2 =
        ((2 * fClk.num * f.den + fClk.den * f.num : Nat) : ℚ) / ((2 * fClk.den * f.num : Nat) : ℚ) := by
      rw [hquot, div_add_div _ _ hne two_ne_zero]
      push_cast
      ring
    rw [hsum, Rat.floor_natCast_div_natCast, periodOf]
    norm_cast

/-- Settles O19: both entries are pinned to 523.25 Hz (R8(c)). -/
theorem bandsOverlapAtNote60 : Obligations.BandsOverlapAtNote60 := by
  intro c
  obtain ⟨-, -, d, e, -, -, hd, he, -, -, hdv, hev⟩ := legal_freq_pins c
  have hperiod : periodOf c.val.fClk e = periodOf c.val.fClk d := by
    rw [← Nat.cast_inj (R := ℤ), periodOf_eq_floor, periodOf_eq_floor, hdv, hev]
  refine ⟨⟨periodOf c.val.fClk d, ?_, ?_⟩, fun s h => ?_⟩
  · rw [romP_periodAddr, periodRom, List.getElem?_map]
    exact congrArg _ hd
  · rw [romP_periodAddr, periodRom, List.getElem?_map, ← hperiod]
    exact congrArg _ he
  · have hmax := quantize_note_le_59 c s
    rw [h] at hmax
    exact absurd hmax (by decide)

end Sys2Proof.Machine
end

section
/-! PROOFS. The statements of 41_frequency_lut_mux.md: the words of the period ROM as rounded quotients (R89), the error
of the rounding, the range check as a frequency range (R90), and the bank of a RISE (R86). -/

namespace Sys2Proof.Machine

/-! ### The words of the period ROM -/

/-- The word at a note's address is the period of that note's frequency (R44, R89). -/
theorem romP_eq_periodOf {c : LegalConfig} {b : Bool} {n : Note} {f : Ratio}
    (hf : (freqBank c.val b)[n.val]? = some f) : romP c (periodAddr b n) = some (periodOf c.val.fClk f) := by
  rw [romP_periodAddr, periodRom, List.getElem?_map, hf, Option.map_some]

/-- Every note has its frequency in either bank (R9). -/
theorem exists_freqBank_note (c : LegalConfig) (b : Bool) (n : Note) :
    ∃ f, (freqBank c.val b)[n.val]? = some f :=
  ⟨_, freqBank_getElem?_eq_raw c b n.isLt⟩

/-- A note whose frequency has the value `v` has the word `p`, where `p` is the rounded quotient of the clock and `v`. -/
theorem romP_eq_of_value {c : LegalConfig} {b : Bool} {n : Note} {f : Ratio} {v : ℚ} {p : Nat}
    (hf : (freqBank c.val b)[n.val]? = some f) (hv : f.value = v)
    (hp : ⌊c.val.fClk.value / v + 1 / 2⌋ = (p : ℤ)) : romP c (periodAddr b n) = some p := by
  rw [romP_eq_periodOf hf, Option.some_inj, ← Nat.cast_inj (R := ℤ), periodOf_eq_floor, hv, hp]

/-- Settles O16: the general clause is `periodOf_eq_floor`, and the pinned words follow from the frequencies that R8(c)
pins. -/
theorem periodRomHoldsRoundedReciprocal : Obligations.PeriodRomHoldsRoundedReciprocal := by
  intro c
  refine ⟨fun b n => ?_, fun hclk => ?_⟩
  · obtain ⟨f, hf⟩ := exists_freqBank_note c b n
    exact ⟨f, _, hf, romP_eq_periodOf hf, periodOf_eq_floor _ f⟩
  · obtain ⟨f0, f6, f60, g0, h0, h6, h60, k0, v0, v6, v60, w0⟩ := legal_freq_pins c
    have hlow : ⌊c.val.fClk.value / 16.35 + 1 / 2⌋ = ((61162 : Nat) : ℤ) := by
      rw [hclk, Int.floor_eq_iff]; norm_num
    have hnote6 : ⌊c.val.fClk.value / 23.12 + 1 / 2⌋ = ((43253 : Nat) : ℤ) := by
      rw [hclk, Int.floor_eq_iff]; norm_num
    have hoverlap : ⌊c.val.fClk.value / 523.25 + 1 / 2⌋ = ((1911 : Nat) : ℤ) := by
      rw [hclk, Int.floor_eq_iff]; norm_num
    rw [show 0x00#7 = periodAddr false 0 by decide, show 0x06#7 = periodAddr false 6 by decide,
      show 0x3C#7 = periodAddr false 60 by decide, show 0x40#7 = periodAddr true 0 by decide]
    exact ⟨romP_eq_of_value h0 v0 hlow, romP_eq_of_value h6 v6 hnote6, romP_eq_of_value h60 v60 hoverlap,
      romP_eq_of_value k0 w0 hoverlap⟩

/-! ### The error of the rounding -/

/-- `round_half_up` is Mathlib's `round`. -/
theorem periodOf_eq_round (fClk f : Ratio) : (periodOf fClk f : ℤ) = round (fClk.value / f.value) := by
  rw [periodOf_eq_floor, round_eq]

/-- A period is off the exact quotient by at most half a cycle (R89). -/
theorem abs_sub_periodOf_le (fClk f : Ratio) : |fClk.value / f.value - (periodOf fClk f : ℚ)| ≤ 1 / 2 := by
  rw [← Int.cast_natCast, periodOf_eq_round]
  exact abs_sub_round _

/-- The relative error of the frequency is the relative error of the period: `|F/p - f| / f = |F/f - p| / p`. -/
theorem relativeError_eq {F f p : ℚ} (hf : 0 < f) (hp : 0 < p) : |F / p - f| / f = |F / f - p| / p := by
  calc |F / p - f| / f = |(F / p - f) / f| := by rw [abs_div, abs_of_pos hf]
    _ = |(F / f - p) / p| := by
        congr 1
        field_simp
    _ = |F / f - p| / p := by rw [abs_div, abs_of_pos hp]

/-- Settles O17: half a cycle of `p` cycles is the share `1 / (2 p)`. -/
theorem frequencyErrorWithinBound : Obligations.FrequencyErrorWithinBound := by
  intro c b n f p hf hp
  obtain rfl : periodOf c.val.fClk f = p := Option.some_inj.1 ((romP_eq_periodOf hf).symm.trans hp)
  have hmem := List.mem_of_getElem? hf
  have hfpos : 0 < f.value := Ratio.value_pos ((Ratio.positive_iff f).2 (legal_freq_positive c b hmem))
  have hppos : (0 : ℚ) < periodOf c.val.fClk f := by
    exact_mod_cast Nat.lt_of_lt_of_le Nat.two_pos (legal_period_range c b hmem).1
  rw [relativeError_eq hfpos hppos, ← div_div]
  exact div_le_div_of_nonneg_right (abs_sub_periodOf_le _ f) hppos.le

/-! ### The period range as a frequency range -/

/-- A period of at least `n` cycles, as a bound on the exact quotient: halves are rounded up. -/
theorem le_periodOf_iff (fClk f : Ratio) (n : Nat) :
    n ≤ periodOf fClk f ↔ (n : ℚ) - 1 / 2 ≤ fClk.value / f.value := by
  rw [← Nat.cast_le (α := ℤ), periodOf_eq_floor, Int.le_floor, Int.cast_natCast, sub_le_iff_le_add]

/-- The upper end of R90 for any width: the period is below `2^PERIOD_W`. -/
theorem periodOf_le_pred_iff (fClk f : Ratio) (w : Nat) :
    periodOf fClk f ≤ 2 ^ w - 1 ↔ fClk.value / f.value < 2 ^ w - 1 / 2 := by
  rw [Nat.le_sub_one_iff_lt (Nat.two_pow_pos w), ← not_le, le_periodOf_iff, not_le, Nat.cast_pow, Nat.cast_ofNat]

/-- R90 as bounds on the frequency: a bound on the quotient changes places with the frequency. -/
theorem periodInRange_periodOf_iff (w : Nat) {fClk f : Ratio} (hf : f.positive = true) :
    periodInRange w (periodOf fClk f) = true ↔
      fClk.value / (2 ^ w - 1 / 2) < f.value ∧ f.value ≤ fClk.value / (3 / 2) := by
  have hfpos := Ratio.value_pos hf
  have hpow : (0 : ℚ) < 2 ^ w - 1 / 2 := by
    have hone : (1 : ℚ) ≤ 2 ^ w := one_le_pow₀ one_le_two
    linarith
  have hthreeHalves : ((2 : Nat) : ℚ) - 1 / 2 = 3 / 2 := by norm_num
  rw [periodInRange_iff, le_periodOf_iff, periodOf_le_pred_iff, hthreeHalves, and_comm, div_lt_comm₀ hfpos hpow,
    le_div_comm₀ (by norm_num) hfpos]

/-- Settles O18. -/
theorem periodRangeIsFrequencyRange : Obligations.PeriodRangeIsFrequencyRange :=
  ⟨fun c _ _ h => periodRom_range c _ h, fun w _ _ _ hf => periodInRange_periodOf_iff w hf⟩

/-! ### The bank of a RISE -/

/-- Where a valid RISE leads: the period is looked up in the bank of the `octave_q` before the cycle (R86, R108). -/
theorem eq_of_exec_riseValid {s t : State} {o : Bool} {cv : Nat} (h : exec (.riseValid o cv) s = .next t) :
    t = samplePorts true o (enterSounding (program (lookup s.cfg s.octaveQ (floorNote s.cfg cv)) s)) := by
  rw [exec_riseValid] at h
  split at h
  · cases h
  · exact (Host.Outcome.next.inj h).symm

/-- Settles O37: the level of `oct_sel` reaches `octave_q` only, in `samplePorts`. -/
theorem riseUsesTheOldBank : Obligations.RiseUsesTheOldBank := by
  intro s t t' o o' cv h h'
  rw [eq_of_exec_riseValid h, eq_of_exec_riseValid h']
  exact ⟨rfl, floorNote s.cfg cv, romP_lookup _ _ _⟩

end Sys2Proof.Machine
end

section
/-! PROOFS. The statements of 42_oscillator_period_divider.md: what TICK, PROGRAM and SILENCE write (R96, R101, R103), the
waveform and its duty (R99), the period along a run of held gate (R97), what shows the counter (R98), and the silence that
every RISE starts from (R102, R104). -/

namespace Sys2Proof.Machine

/-! ### The waveform -/

/-- The output is high in the first half of a running period (R99). -/
theorem oscOut_eq_true_iff (s : State) : oscOut s = true ↔ s.dutyEn = true ∧ s.counter < s.periodReg / 2 := by
  rw [oscOut, Bool.and_eq_true, decide_eq_true_iff, Nat.shiftRight_one]

/-- A silent divider has a low output, whatever the other registers hold (R99, R100). -/
theorem oscOut_of_dutyEn_false {s : State} (h : s.dutyEn = false) : oscOut s = false := by
  rw [oscOut, h, Bool.false_and]

theorem oscOut_running {s : State} (h : s.dutyEn = true) (k : Nat) :
    oscOut { s with counter := k } = decide (k < s.periodReg / 2) := by
  rw [Bool.eq_iff_iff, oscOut_eq_true_iff, decide_eq_true_iff]
  exact and_iff_right h

theorem countP_lt_range (m n : Nat) : (List.range n).countP (fun k => decide (k < m)) = min m n := by
  induction n with
  | zero => simp
  | succ n ih =>
    rw [List.range_succ, List.countP_append, ih, List.countP_singleton]
    by_cases h : n < m
    · rw [if_pos (decide_eq_true h)]; omega
    · rw [if_neg (by simpa using h)]; omega

/-- The phases of one period at which the output is high: `floor(P/2)` of them (R99). -/
theorem countP_oscOut {s : State} (h : s.dutyEn = true) :
    (List.range s.periodReg).countP (fun k => oscOut { s with counter := k }) = s.periodReg / 2 := by
  simp only [oscOut_running h]
  rw [countP_lt_range]
  exact min_eq_left (Nat.div_le_self _ 2)

/-- The others, at which it is low: `ceil(P/2)`. -/
theorem countP_not_oscOut {s : State} (h : s.dutyEn = true) :
    (List.range s.periodReg).countP (fun k => !oscOut { s with counter := k }) = (s.periodReg + 1) / 2 := by
  have hsum := List.length_eq_countP_add_countP (l := List.range s.periodReg) (fun k => oscOut { s with counter := k })
  simp only [List.length_range, countP_oscOut h, Bool.not_eq_true, Bool.decide_eq_false] at hsum
  omega

/-- Settles O27. -/
theorem waveformHighForHalfThePeriod : Obligations.WaveformHighForHalfThePeriod := fun s =>
  ⟨oscOut_of_dutyEn_false, fun h =>
    ⟨(oscOut_eq_true_iff s).trans (and_iff_right h), countP_oscOut h, countP_not_oscOut h⟩⟩

/-- How far `floor(P/2)` of `P` is from one half: by `P % 2` halves of one phase. -/
theorem half_div_sub_half {p : Nat} (hp : 0 < p) :
    ((p / 2 : Nat) : ℚ) / p - 1 / 2 = -(((p % 2 : Nat) : ℚ) / (2 * p)) := by
  have hpos : (p : ℚ) ≠ 0 := by exact_mod_cast hp.ne'
  have hdiv : (2 : ℚ) * (p / 2 : Nat) + (p % 2 : Nat) = p := by exact_mod_cast Nat.div_add_mod p 2
  field_simp
  linarith

/-- Settles O28: the remainder of `P` by 2, which is what `floor(P/2)` leaves, is at most 1. -/
theorem dutyIsNearlyHalf : Obligations.DutyIsNearlyHalf := by
  intro s hd hp
  simp only [countP_oscOut hd]
  have hgap := half_div_sub_half hp
  refine ⟨?_, fun heven => ?_⟩
  · have hrem : ((s.periodReg % 2 : Nat) : ℚ) ≤ 1 := by exact_mod_cast Nat.le_of_lt_succ (Nat.mod_lt _ Nat.two_pos)
    rw [hgap, abs_neg, abs_of_nonneg (by positivity)]
    exact div_le_div_of_nonneg_right hrem (by positivity)
  · rw [heven, Nat.cast_zero, zero_div, neg_zero] at hgap
    exact sub_eq_zero.1 hgap

/-! ### The period along a run -/

/-- Inside its period, a running divider counts modulo the period (R96, R97). -/
theorem nextCounter_eq_mod {p k : Nat} (hk : k < p) : nextCounter true p k = (k + 1) % p := by
  rcases nextCounter_running p k with ⟨hend, h⟩ | ⟨hlt, h⟩
  · rw [h, show k + 1 = p by omega, Nat.mod_self]
  · rw [h, Nat.mod_eq_of_lt hlt]

/-- A cycle with the gate held high is IDLE_HIGH: it ticks and samples the ports (R110). -/
theorem CycleTo.eq_of_held_gate {s t : State} {v : Inputs} (h : CycleTo s v t) (hrst : v.rst = false)
    (hprev : s.gatePrev = true) (hgate : v.gate = true) : t = samplePorts true v.octSel (tick s) := by
  cases h with
  | idleHigh => rfl
  | reset _ hset => simp [hrst] at hset
  | fall _ _ _ hlow => simp [hgate] at hlow
  | idleLow _ _ hlow => simp [hprev] at hlow
  | riseValid _ _ hlow => simp [hprev] at hlow
  | riseOor _ _ hlow => simp [hprev] at hlow

/-- A running divider after cycles of held gate, by induction on the cycles: each one moves the phase by one modulo the
period, and the phase stays inside it (R97). -/
theorem runCycles_held_gate (vs : List Inputs) (rest : List Pins) :
    ∀ s : State, s.wasReset = true → s.gatePrev = true → s.dutyEn = true → s.counter < s.periodReg →
      (∀ v ∈ vs, v.rst = false ∧ v.gate = true ∧ v.fits s.cfg.val.sampleW = true) → s.script = vs.map pinsOf ++ rest →
      ∃ o, runCycles vs.length s =
        .next { s with counter := (s.counter + vs.length) % s.periodReg, octaveQ := o, script := rest } := by
  induction vs with
  | nil =>
    intro s _ _ _ hlt _ hs
    have hs' : rest = s.script := hs.symm
    refine ⟨s.octaveQ, ?_⟩
    rw [hs', List.length_nil, Nat.add_zero, Nat.mod_eq_of_lt hlt, runCycles_zero]
  | cons v vs ih =>
    intro s hw hprev hd hlt hall hs
    obtain ⟨⟨hrst, hgate, hfit⟩, hall'⟩ := List.forall_mem_cons.1 hall
    have hp : s.Presents v (vs.map pinsOf ++ rest) := ⟨pinsOf v, hs, sample_pinsOf v, hfit, mayRun_of_wasReset hw v⟩
    obtain ⟨u, hu⟩ := (completes_iff_presents s).2 ⟨v, _, hp⟩
    obtain rfl := (hp.cycleTo hu).eq_of_held_gate hrst hprev hgate
    have hcount : nextCounter s.dutyEn s.periodReg s.counter = (s.counter + 1) % s.periodReg := by
      rw [hd, nextCounter_eq_mod hlt]
    obtain ⟨o, hrun⟩ := ih (samplePorts true v.octSel (tick { s with script := vs.map pinsOf ++ rest })) hw rfl hd
      (hcount.trans_lt (Nat.mod_lt _ (Nat.zero_lt_of_lt hlt))) hall' rfl
    refine ⟨o, ?_⟩
    rw [List.length_cons, runCycles_succ _ hu, hrun]
    simp [samplePorts, tick, hcount, hprev, Nat.add_assoc, Nat.add_comm 1]

/-- Settles O29: the state after the run is known from `runCycles_held_gate`, and its output from R99's formula. -/
theorem counterRunsModuloPeriod : Obligations.CounterRunsModuloPeriod := by
  intro vs rest s hw hprev hd hlt hall hs
  obtain ⟨o, hrun⟩ := runCycles_held_gate vs rest s hw hprev hd hlt hall hs
  refine ⟨_, hrun, rfl, rfl, (oscOut_eq_true_iff _).trans (and_iff_right hd), ?_⟩
  have hmod : s.counter + vs.length ≡ s.counter [MOD s.periodReg] ↔ s.periodReg ∣ vs.length := Nat.add_modEq_left_iff
  rwa [Nat.ModEq, Nat.mod_eq_of_lt hlt] at hmod

/-! ### What shows the counter -/

/-- No condition of a cycle reads the counter, and no operation puts it in another register (R98). -/
theorem exists_cycleResult_setCounter (s : State) (v : Inputs) (k : Nat) :
    ∃ k', cycleResult { s with counter := k } v = { cycleResult s v with counter := k' } := by
  unfold cycleResult
  dsimp only
  split_ifs <;> exact ⟨_, rfl⟩

/-- Settles O44: both states present the same vector, so each steps to its `cycleResult`. -/
theorem counterOnlyShowsInOscOut : Obligations.CounterOnlyShowsInOscOut := by
  intro s t k h
  cases step_eq_iff.1 h with
  | @completes v rest hp =>
    have hp' : State.Presents { s with counter := k } v rest := hp
    obtain ⟨k', hk'⟩ := exists_cycleResult_setCounter { s with script := rest } v k
    exact ⟨k', (StepCase.completes hp').step_eq.trans (congrArg _ hk'), rfl⟩

/-! ### The silence before a RISE -/

/-- A RISE is a non-reset cycle at which the gate goes high (R58). -/
theorem levels_of_rise {s : State} {v : Inputs} (h : (decodeIn s v).event = .rise) :
    v.rst = false ∧ s.gatePrev = false ∧ v.gate = true :=
  (decodeOp_opWord_eq_rise_iff _ _ _).1 ((decodesTo_decode _ _ v).event_eq.symm.trans h)

/-- With the sampled gate low, a run that has had its reset is SILENT, with the divider at rest and no error (R30, R31). -/
theorem State.Consistent.at_rest {s : State} (h : s.Consistent) (hw : s.wasReset = true) (hprev : s.gatePrev = false) :
    s.state = .silent ∧ s.dutyEn = false ∧ s.counter = 0 ∧ s.errFlag = false := by
  obtain ⟨hagree, hdiv, herr, -⟩ := h hw
  have hsilent := hagree.silent hprev
  have hoff := hdiv.dutyEn_of_silent hsilent
  exact ⟨hsilent, hoff, hdiv.1 hoff, herr.errFlag_of_silent hsilent⟩

/-- Where an out-of-range RISE leads (R107); the other cycles run another operation. -/
theorem CycleTo.eq_of_riseOor {s t : State} {v : Inputs} {o : Bool} {cv : Nat} (h : CycleTo s v t)
    (hop : decodeIn s v = .riseOor o cv) :
    t = samplePorts true v.octSel (enterSounding (raiseVoltageOutOfRange (tick s))) := by
  cases h with
  | riseOor => rfl
  | _ => simp_all

/-- Settles O49: a RISE that may run is no RESET, so the run has had its reset, and the gate was low before it. -/
theorem everyRiseStartsSilent : Obligations.EveryRiseStartsSilent := by
  intro s t v rest hcons hp hrise hstep
  obtain ⟨hrst, hprev, -⟩ := levels_of_rise hrise
  have hw : s.wasReset = true := by
    obtain ⟨_, _, _, _, hm⟩ := hp
    by_contra hw
    simp [rst_of_mayRun hm (Bool.eq_false_of_not_eq_true hw)] at hrst
  obtain ⟨hsilent, hoff, hrest, hnoerr⟩ := hcons.at_rest hw hprev
  refine ⟨hsilent, hoff, hrest, oscOut_of_dutyEn_false hoff, hnoerr, ?_⟩
  rintro ⟨o, cv, hop⟩
  obtain rfl := (hp.cycleTo hstep).eq_of_riseOor hop
  exact ⟨rfl, hoff, oscOut_of_dutyEn_false hoff, rfl⟩

/-! ### The three operations of the divider -/

/-- Settles O24, from the cases of `nextCounter`. -/
theorem tickCountsWithinPeriod : Obligations.TickCountsWithinPeriod := by
  intro s
  refine ⟨nextCounter s.dutyEn s.periodReg s.counter, rfl, ?_⟩
  cases s.dutyEn with
  | false => simp
  | true =>
    rcases nextCounter_running s.periodReg s.counter with ⟨hend, h⟩ | ⟨hlt, h⟩
    · exact ⟨nofun, fun _ _ => h, by omega, fun _ _ => h, fun _ _ => h, .inl h⟩
    · exact ⟨nofun, by omega, fun _ _ => h, by omega, by omega, .inr (h ▸ hlt)⟩

/-- Settles O25: PROGRAM overwrites the counter, the one field that TICK changes, and phase 0 is high once
`floor(P/2)` is at least 1. -/
theorem programRestartsPhaseHigh : Obligations.ProgramRestartsPhaseHigh := fun s p =>
  ⟨rfl, rfl, fun hp => (oscOut_eq_true_iff _).2 ⟨program_dutyEn p s, Nat.div_pos hp Nat.two_pos⟩⟩

/-- Settles O26. -/
theorem silenceKeepsPeriod : Obligations.SilenceKeepsPeriod := by
  refine fun s => ⟨rfl, oscOut_of_dutyEn_false (silence_dutyEn s), fun hoff hrest => ?_⟩
  calc silence s = { s with dutyEn := false, counter := 0 } := rfl
    _ = s := by rw [← hoff, ← hrest]

end Sys2Proof.Machine
end

section
/-! PROOFS. The statements of 43_gate_edge_state_machine.md: what each gate event writes (R107 to R111), the cycle step
(R112), the edges of a held gate (R106), and the totality of the step (R120). They rest on `CycleTo` and `StepCase` of
10_state.md and on `DecodesTo` of 30_encoding.md. -/

namespace Sys2Proof.Machine

/-! ### The cycle step -/

/-- TICK's next counter value as R112 writes it. -/
theorem nextCounter_eq_ite (d : Bool) (p k : Nat) :
    nextCounter d p k = if d = true then (if p ≤ k + 1 then 0 else k + 1) else 0 := by
  cases d <;> rfl

/-- Every cycle leads where R112's pseudocode leads. -/
theorem CycleTo.cycleStep_eq {s t : State} {v : Inputs} (h : CycleTo s v t) : cycleStep s v = t := by
  unfold cycleStep
  cases h with
  | reset _ hrst => exact if_pos hrst
  | idleLow _ hrst hprev hgate => simp [hrst, hprev, hgate, samplePorts, tick, nextCounter_eq_ite]
  | riseValid _ hrst hprev hgate hcv =>
    simp [hrst, hprev, hgate, quantize_of_lt hcv, samplePorts, enterSounding, program]
  | riseOor _ hrst hprev hgate hcv =>
    simp [hrst, hprev, hgate, quantize_of_le hcv, samplePorts, enterSounding, raiseVoltageOutOfRange, tick,
      nextCounter_eq_ite]
  | fall _ hrst hprev hgate => simp [hrst, hprev, hgate, samplePorts, enterSilent, silence, clearError]
  | idleHigh _ hrst hprev hgate => simp [hrst, hprev, hgate, samplePorts, tick, nextCounter_eq_ite]

/-- Settles O30: the step answers the cycle's result, and each of the six cycles leads where R112 says. -/
theorem stepRefinesCycleRule : Obligations.StepRefinesCycleRule := by
  intro s v rest hp
  have hstep := (StepCase.completes hp).step_eq
  rwa [← (hp.cycleTo hstep).cycleStep_eq] at hstep

/-! ### The edges of a held gate -/

/-- A run that takes a cycle other than RESET has had its reset (R34). -/
theorem State.Presents.wasReset_of_not_rst {s : State} {v : Inputs} {rest : List Pins} (hp : s.Presents v rest)
    (hrst : v.rst = false) : s.wasReset = true := by
  obtain ⟨-, -, -, -, hm⟩ := hp
  simpa [mayRun, hrst] using hm

/-- After the reset, the inputs that stand first in the script are the next cycle's. -/
theorem presents_of_wasReset {s : State} {v : Inputs} {rest : List Pins} (hw : s.wasReset = true)
    (hfit : v.fits s.cfg.val.sampleW = true) (hs : s.script = pinsOf v :: rest) : s.Presents v rest :=
  ⟨pinsOf v, hs, sample_pinsOf v, hfit, mayRun_of_wasReset hw v⟩

/-- The event of a cycle other than RESET, from the two gate levels (R58). -/
theorem event_decodeIn {s : State} {v : Inputs} (hrst : v.rst = false) :
    (decodeIn s v).event =
      if s.gatePrev then (if v.gate then .idleHigh else .fall) else (if v.gate then .rise else .idleLow) := by
  have hev : (decodeIn s v).event = _ := (decodesTo_decode _ _ v).event_eq
  rw [hev, decodeOp_opWord, hrst]
  rfl

/-- A change of the gate level is an edge event (R106). -/
theorem event_of_gate_ne {s : State} {v : Inputs} (hrst : v.rst = false) (hne : s.gatePrev ≠ v.gate) :
    (decodeIn s v).event = .rise ∧ v.gate = true ∨ (decodeIn s v).event = .fall ∧ v.gate = false := by
  rw [event_decodeIn hrst, Bool.eq_not_of_ne hne]
  cases v.gate with
  | true => exact .inl ⟨rfl, rfl⟩
  | false => exact .inr ⟨rfl, rfl⟩

/-- A gate level that stays is an IDLE event (R106). -/
theorem event_of_gate_eq {s : State} {v : Inputs} (hrst : v.rst = false) (heq : s.gatePrev = v.gate) :
    (decodeIn s v).event = .idleLow ∨ (decodeIn s v).event = .idleHigh := by
  rw [event_decodeIn hrst, heq]
  cases v.gate with
  | true => exact .inr rfl
  | false => exact .inl rfl

/-- Cycles that hold the gate level, by induction on the cycles: all of them complete, and the level stays sampled. -/
theorem runCycles_held_level (g : Bool) (vs : List Inputs) (rest : List Pins) :
    ∀ s : State, s.wasReset = true → s.gatePrev = g → s.script = vs.map pinsOf ++ rest →
      (∀ v ∈ vs, v.rst = false ∧ v.gate = g ∧ v.fits s.cfg.val.sampleW = true) →
      ∃ t, runCycles vs.length s = .next t ∧ t.wasReset = true ∧ t.gatePrev = g ∧ t.script = rest ∧ t.cfg = s.cfg := by
  induction vs with
  | nil => exact fun s hw hprev hs _ => ⟨s, rfl, hw, hprev, hs, rfl⟩
  | cons v vs ih =>
    intro s hw _ hs hall
    obtain ⟨⟨hrst, hgate, hfit⟩, hall'⟩ := List.forall_mem_cons.1 hall
    have hp := presents_of_wasReset hw hfit hs
    have hu := (StepCase.completes hp).step_eq
    have hc := hp.cycleTo hu
    have hcfg := hc.cfg_eq
    obtain ⟨t, hrun, hwt, hprev, hst, hcfgt⟩ := ih _ (hc.wasReset_eq hw) ((hc.ports_eq hrst).2.trans hgate) hc.script_eq
      (by rw [hcfg]; exact hall')
    exact ⟨t, (runCycles_succ vs.length hu).trans hrun, hwt, hprev, hst, hcfgt.trans hcfg⟩

/-- Settles O36: the first cycle leaves `gate_prev` at the level, the cycles after it keep it there
(`runCycles_held_level`), and so the next cycle of the level finds no change. -/
theorem heldGateGivesOneEdge : Obligations.HeldGateGivesOneEdge := by
  intro s v rest hp hrst
  have hu := (StepCase.completes hp).step_eq
  have hc := hp.cycleTo hu
  have hprev := (hc.ports_eq hrst).2
  refine ⟨⟨_, hu, hprev⟩, event_of_gate_ne hrst, fun vs w rest' hrest hall => ?_⟩
  obtain ⟨⟨hrstw, hgatew, hfitw⟩, hall'⟩ := List.forall_mem_cons.1 hall
  have hcfg := hc.cfg_eq
  obtain ⟨t, hrun, hwt, hprevt, hst, hcfgt⟩ := runCycles_held_level v.gate vs _ _
    (hc.wasReset_eq (hp.wasReset_of_not_rst hrst)) hprev (hc.script_eq.trans hrest) (by rw [hcfg]; exact hall')
  refine ⟨t, (runCycles_succ vs.length hu).trans hrun, presents_of_wasReset hwt ?_ hst,
    event_of_gate_eq hrstw (hprevt.trans hgatew.symm)⟩
  rw [hcfgt, hcfg]
  exact hfitw

/-! ### The meaning of each gate event -/

/-- Settles O5: the note is the one the search gives (`floorNote_spec`), and LOOKUP is the ROM word at its address. -/
theorem riseValidProgramsTheNote : Obligations.RiseValidProgramsTheNote := by
  refine ⟨fun _ _ hrst hgate hcv => (DecodesTo.riseValid hrst rfl hgate hcv).decode_eq, fun s o cv t ht hcv => ?_⟩
  obtain rfl := eq_topThreshold ht
  obtain ⟨hown, hnext⟩ := floorNote_spec s.cfg cv
  have hle : (floorNote s.cfg cv).val ≤ 59 := floorNote_le_59 hcv
  refine ⟨floorNote s.cfg cv, lookup s.cfg s.octaveQ (floorNote s.cfg cv), hle, ?_, ?_, romP_lookup _ _ _, ?_⟩
  · rw [romT_ofNat s.cfg (by omega)]
    exact hown
  · rw [romT_ofNat s.cfg (by omega)]
    exact hnext
  · rw [exec_riseValid, if_neg (Nat.not_le.2 hcv)]
    rfl

/-- Settles O2: TICK's cases are those of O24. -/
theorem idleTicksAndSamplesPorts : Obligations.IdleTicksAndSamplesPorts := by
  refine ⟨fun top v hrst => ⟨fun hgate => (DecodesTo.idleLow hrst rfl hgate).decode_eq,
    fun hgate => (DecodesTo.idleHigh hrst rfl hgate).decode_eq⟩, fun s o => ?_⟩
  obtain ⟨k, htick, hoff, hwrap, hcount, -⟩ := tickCountsWithinPeriod s
  refine ⟨k, ?_, ?_, hoff, hwrap, hcount⟩
  · rw [exec_idleLow, htick]
    rfl
  · rw [exec_idleHigh, htick]
    rfl

theorem outputs_oscOut (s : State) : (outputs s).oscOut = oscOut s := rfl

/-- Settles O3: SILENCE clears `duty_en`, and the operations after it keep it. -/
theorem fallSilencesAndClearsError : Obligations.FallSilencesAndClearsError :=
  ⟨fun _ _ hrst hgate => (DecodesTo.fall hrst rfl hgate).decode_eq,
    fun s o => ⟨_, exec_fall o s, rfl, (outputs_oscOut _).trans (oscOut_of_dutyEn_false rfl)⟩⟩

/-- Settles O4: an out-of-range RISE keeps `duty_en`, so a silent output has nothing to make it sound. -/
theorem riseOutOfRangeRaisesError : Obligations.RiseOutOfRangeRaisesError := by
  refine ⟨fun _ _ hrst hgate hcv => (DecodesTo.riseOor hrst rfl hgate hcv).decode_eq, fun s o cv t ht hcv => ?_⟩
  obtain rfl := eq_topThreshold ht
  rw [exec_riseOor, if_pos hcv, ← nextCounter_eq_ite]
  refine ⟨rfl, fun hoff s' hs' => ?_⟩
  obtain rfl := Host.Outcome.next.inj hs'
  exact oscOut_of_dutyEn_false hoff

/-- Settles O38: no operation of a RISE reads `state`, and `enterSounding` overwrites it. -/
theorem riseDoesNotReadState : Obligations.RiseDoesNotReadState := by
  intro s x o cv
  rw [exec_riseValid, exec_riseValid, exec_riseOor, exec_riseOor]
  exact ⟨rfl, rfl⟩

/-! ### Every binary cycle completes -/

/-- A binary level carries a bit (R55). -/
theorem Level.exists_eq_ofBit {l : Level} (h : l ≠ .nonBinary) : ∃ b, l = .ofBit b := by
  cases l with
  | low => exact ⟨false, rfl⟩
  | high => exact ⟨true, rfl⟩
  | nonBinary => exact absurd rfl h

theorem Level.ofBit_eq_high_iff (b : Bool) : Level.ofBit b = .high ↔ b = true := by cases b <;> simp [Level.ofBit]

/-- Pins with a binary level on each one-bit port are those of some inputs. -/
theorem Pins.exists_eq_pinsOf {p : Pins} (hrst : p.rst ≠ .nonBinary) (hgate : p.gate ≠ .nonBinary)
    (hoct : p.octSel ≠ .nonBinary) : ∃ v, p = pinsOf v := by
  obtain ⟨rst, gate, oct, cv⟩ := p
  obtain ⟨r, rfl⟩ := Level.exists_eq_ofBit hrst
  obtain ⟨g, rfl⟩ := Level.exists_eq_ofBit hgate
  obtain ⟨o, rfl⟩ := Level.exists_eq_ofBit hoct
  exact ⟨⟨r, g, o, cv⟩, rfl⟩

/-- Settles O33: binary pins present the inputs that they are the pins of, and a presented cycle completes. -/
theorem everyBinaryCycleCompletes : Obligations.EveryBinaryCycleCompletes := by
  intro s pins rest hs hrst hgate hoct hcv hmay
  obtain ⟨v, rfl⟩ := Pins.exists_eq_pinsOf hrst hgate hoct
  have hfit : portFits s v = true := (portFits_iff s v).2 (Nat.lt_of_le_pred (Nat.two_pow_pos _) hcv)
  have hrun : mayRun s v = true := Bool.or_eq_true_iff.2 (hmay.imp_right (Level.ofBit_eq_high_iff v.rst).1)
  have hp : s.Presents v rest := ⟨pinsOf v, hs, sample_pinsOf v, hfit, hrun⟩
  have hstep := (StepCase.completes hp).step_eq
  exact ⟨_, hstep, (hp.cycleTo hstep).script_eq⟩

end Sys2Proof.Machine
end

section
/-! PROOFS. The statements of 60_exceptions.md: the error flag (R122, R125) and the outputs (R99, R129). `nextErrFlag`
says once what a cycle does to the flag. -/

namespace Sys2Proof.Machine

/-! ### The error flag -/

/-- The flag after a cycle that samples `v`: an out-of-range RISE sets it, a FALL and a RESET clear it, and every other cycle,
a valid RISE included, keeps it (R125). -/
def nextErrFlag (s : State) (v : Inputs) : Bool :=
  if (decodeIn s v).event = .rise ∧ topThreshold s.cfg ≤ v.cvCode then true
  else if (decodeIn s v).event = .fall ∨ (decodeIn s v).event = .reset then false
  else s.errFlag

theorem CycleTo.errFlag_eq {s t : State} {v : Inputs} (h : CycleTo s v t) : t.errFlag = nextErrFlag s v := by
  unfold nextErrFlag
  cases h with
  | riseValid hop _ _ _ hcv => simp [hop, Instr.event, Nat.not_le.2 hcv]
  | riseOor hop _ _ _ hcv => simp [hop, Instr.event, hcv]
  | reset hop | idleLow hop | fall hop | idleHigh hop => simp [hop, Instr.event]

/-- Settles O41: a cycle that sets the flag is a RISE, so it is neither of the two events that clear the flag. -/
theorem errorFlagSetAndCleared : Obligations.ErrorFlagSetAndCleared := by
  intro s t v rest top hp htop hstep
  obtain rfl := eq_topThreshold htop
  have hflag : t.errFlag = nextErrFlag s v := (hp.cycleTo hstep).errFlag_eq
  rw [hflag, nextErrFlag]
  refine ⟨fun hoff hon => ?_, fun hrise hcv => if_pos ⟨hrise, hcv⟩, fun hon hoff => ?_, fun hclear => ?_⟩
  · by_contra hno
    simp [hno, hoff] at hon
  · by_contra hno
    simp [hno, hon] at hoff
  · have hno : (decodeIn s v).event ≠ .rise := by rcases hclear with h | h <;> simp [h]
    rw [if_neg fun hset => hno hset.1, if_pos hclear]

/-! ### The outputs -/

/-- The bit of the gate state is 1 exactly while SOUNDING (R61). -/
theorem GateState.bit_eq_true_iff (x : GateState) : x.bit = true ↔ x = .sounding := by cases x <;> simp [GateState.bit]

/-- Settles O58: `gate_led` is the bit of `state`, and the other outputs are their registers by definition. -/
theorem outputsMirrorRegisters : Obligations.OutputsMirrorRegisters :=
  fun s => ⟨s.state.bit_eq_true_iff, rfl, rfl, rfl, outputs_oscOut s⟩

end Sys2Proof.Machine
end

section
/-! PROOFS. The statements of 70_reset_and_hazards.md: what RESET writes (R136), a gate held high through the reset
(R138), and a gate pulse seen at one edge (R140). They rest on `CycleTo` of 10_state.md and on the divider's facts of
42_oscillator_period_divider.md. -/

namespace Sys2Proof.Machine

/-! ### Where the cycles of a gate pulse lead -/

namespace CycleTo

variable {s t : State} {v : Inputs}

/-- At a RISE the block becomes SOUNDING on either side of the top threshold (R107, R108). -/
theorem sounding_of_rise (h : CycleTo s v t) (hrst : v.rst = false) (hprev : s.gatePrev = false)
    (hgate : v.gate = true) : t.state = .sounding := by
  cases h with
  | riseValid | riseOor => rfl
  | _ => simp_all

/-- Where a RISE below the top threshold leads (R108). -/
theorem eq_of_valid_rise (h : CycleTo s v t) (hrst : v.rst = false) (hprev : s.gatePrev = false) (hgate : v.gate = true)
    (hcv : v.cvCode < topThreshold s.cfg) :
    t = samplePorts true v.octSel (enterSounding (program (lookup s.cfg s.octaveQ (floorNote s.cfg v.cvCode)) s)) := by
  cases h with
  | riseValid => rfl
  | riseOor _ _ _ _ hoor => exact absurd hcv (Nat.not_lt.2 hoor)
  | _ => simp_all

/-- Where a gate low after a gate high leads (R109). -/
theorem eq_of_fall (h : CycleTo s v t) (hrst : v.rst = false) (hprev : s.gatePrev = true) (hgate : v.gate = false) :
    t = samplePorts false v.octSel (enterSilent (silence (clearError s))) := by
  cases h with
  | fall => rfl
  | _ => simp_all

end CycleTo

@[simp] theorem oscOut_samplePorts (g o : Bool) (s : State) : oscOut (samplePorts g o s) = oscOut s := rfl

@[simp] theorem oscOut_enterSounding (s : State) : oscOut (enterSounding s) = oscOut s := rfl

/-- PROGRAM with a ROM word starts in the high half of the period, since the word is at least 2 (R90, R102). -/
theorem oscOut_program_lookup (s : State) (c : LegalConfig) (b : Bool) (n : Note) :
    oscOut (program (lookup c b n) s) = true :=
  (programRestartsPhaseHigh s _).2.2 (lookup_range c b n).1

/-! ### The reset -/

/-- Settles O1: `resetRegisters` writes constants only, so writing them again changes nothing. -/
theorem resetWritesEveryRegister : Obligations.ResetWritesEveryRegister :=
  ⟨fun _ _ _ hrst => (DecodesTo.reset hrst).decode_eq, fun s => ⟨resetRegisters s, exec_reset s, rfl, rfl, rfl⟩⟩

/-- Settles O50: the reset leaves `gate_prev` and `octave_q` at 0, so the next cycle is a RISE, and it looks its note up
in bank 0 before it samples `oct_sel`. -/
theorem firstCycleAfterResetUsesBankZero : Obligations.FirstCycleAfterResetUsesBankZero := by
  intro s r v rest top hs hfitr hfitv hrstr hrstv hgate htop hcv
  obtain rfl := eq_topThreshold htop
  have hreset : step s = .next (resetRegisters { s with script := pinsOf v :: rest }) :=
    resetOverridesEveryEvent s r _ hs hfitr hrstr
  have hp : (resetRegisters { s with script := pinsOf v :: rest }).Presents v rest :=
    presents_of_wasReset rfl hfitv rfl
  obtain ⟨t, hrise⟩ := (completes_iff_presents _).2 ⟨v, rest, hp⟩
  obtain rfl := (hp.cycleTo hrise).eq_of_valid_rise hrstv rfl hgate hcv
  exact ⟨_, floorNote s.cfg v.cvCode, (runCycles_succ 1 hreset).trans (runCycles_succ 0 hrise),
    (quantize_note_of_lt hcv).symm, romP_lookup s.cfg false _, rfl, rfl, rfl, rfl, rfl⟩

/-! ### The one-edge pulse -/

/-- Settles O51: the RISE leaves `gate_prev` high, so the low gate of the next cycle is a FALL, whichever RISE it
was. -/
theorem oneCyclePulseSoundsOneCycle : Obligations.OneCyclePulseSoundsOneCycle := by
  intro s v w rest top hw hprev hs hfitv hfitw hrstv hgatev hrstw hgatew htop
  obtain rfl := eq_topThreshold htop
  have hpv := presents_of_wasReset hw hfitv hs
  obtain ⟨t, ht⟩ := (completes_iff_presents s).2 ⟨v, _, hpv⟩
  have hrise := hpv.cycleTo ht
  have hhigh : t.gatePrev = true := (hrise.ports_eq hrstv).2.trans hgatev
  have hpw : t.Presents w rest :=
    presents_of_wasReset (hrise.wasReset_eq hw) (by rw [hrise.cfg_eq]; exact hfitw) hrise.script_eq
  obtain ⟨u, hu⟩ := (completes_iff_presents t).2 ⟨w, rest, hpw⟩
  obtain rfl := (hpw.cycleTo hu).eq_of_fall hrstw hhigh hgatew
  refine ⟨t, _, ht, hu, hrise.sounding_of_rise hrstv hprev hgatev, fun hcv => ?_, rfl, oscOut_of_dutyEn_false rfl, rfl,
    rfl⟩
  rw [hrise.eq_of_valid_rise hrstv hprev hgatev hcv, oscOut_samplePorts, oscOut_enterSounding, oscOut_program_lookup]

end Sys2Proof.Machine
end
